-- ==== Sys2Proof/Word.lean ====
section
/-! DEFINITION. The word types of the machine: bytes, 16-bit words, and the fields of an
instruction word (R9, R10 `00_scope.md`, R72 `30_encoding.md`). -/

namespace Sys2Proof

/-- A byte of memory, a general register, a timer (R22, R24, R29 `10_state.md`). -/
abbrev Byte := BitVec 8

/-- A 16-bit word: an instruction word, `I`, `PC`, a stack entry (R70 `30_encoding.md`; R26, R28, R37 `10_state.md`). -/
abbrev Word := BitVec 16

/-- The field X or Y: a register index 0 to 15; every value is a valid index (R72 `30_encoding.md`). -/
abbrev RegIdx := BitVec 4

/-- The field N: a row count 0 to 15 (R72 `30_encoding.md`). -/
abbrev RowCount := BitVec 4

/-- The field NNN: a 12-bit literal address (R72 `30_encoding.md`). -/
abbrev Addr := BitVec 12

end Sys2Proof
end

