-- ==== Sys2Proof/Syntax.lean ====
section
/-! DEFINITION. The instructions: one constructor per row of `spec/opcode_table.json`, in the order
of R75 (`30_encoding.md`), with the fields of R72 as arguments. -/

namespace Sys2Proof

/-- The 34 instructions of R75 (`30_encoding.md`) and the unmatched no-op of R95 (`40_fetch_decode.md`). -/
inductive Instr where
  /-- `CLS` 00E0 (R151). -/
  | cls
  /-- `RET` 00EE (R100). -/
  | ret
  /-- `JP NNN` 1NNN (R101). -/
  | jp (nnn : Addr)
  /-- `CALL NNN` 2NNN (R102). -/
  | call (nnn : Addr)
  /-- `SE Vx,NN` 3XNN (R103). -/
  | seImm (x : RegIdx) (nn : Byte)
  /-- `SNE Vx,NN` 4XNN (R104). -/
  | sneImm (x : RegIdx) (nn : Byte)
  /-- `SE Vx,Vy` 5XY0 (R105). -/
  | seReg (x y : RegIdx)
  /-- `LD Vx,NN` 6XNN (R122). -/
  | ldImm (x : RegIdx) (nn : Byte)
  /-- `ADD Vx,NN` 7XNN (R123). -/
  | addImm (x : RegIdx) (nn : Byte)
  /-- `LD Vx,Vy` 8XY0 (R124). -/
  | ldReg (x y : RegIdx)
  /-- `OR Vx,Vy` 8XY1 (R125). -/
  | orReg (x y : RegIdx)
  /-- `AND Vx,Vy` 8XY2 (R125). -/
  | andReg (x y : RegIdx)
  /-- `XOR Vx,Vy` 8XY3 (R125). -/
  | xorReg (x y : RegIdx)
  /-- `ADD Vx,Vy` 8XY4 (R126). -/
  | addReg (x y : RegIdx)
  /-- `SUB Vx,Vy` 8XY5 (R127). -/
  | sub (x y : RegIdx)
  /-- `SHR Vx` 8XY6 (R128); Y is part of the word and is ignored (R77). -/
  | shr (x y : RegIdx)
  /-- `SUBN Vx,Vy` 8XY7 (R129). -/
  | subn (x y : RegIdx)
  /-- `SHL Vx` 8XYE (R130); Y is part of the word and is ignored (R77). -/
  | shl (x y : RegIdx)
  /-- `SNE Vx,Vy` 9XY0 (R106). -/
  | sneReg (x y : RegIdx)
  /-- `LD I,NNN` ANNN (R141). -/
  | ldI (nnn : Addr)
  /-- `JP V0,NNN` BNNN (R108). -/
  | jpV0 (nnn : Addr)
  /-- `RND Vx,NN` CXNN (R132). -/
  | rnd (x : RegIdx) (nn : Byte)
  /-- `DRW Vx,Vy,N` DXYN (R152). -/
  | drw (x y : RegIdx) (n : RowCount)
  /-- `SKP Vx` EX9E (R161). -/
  | skp (x : RegIdx)
  /-- `SKNP Vx` EXA1 (R162). -/
  | sknp (x : RegIdx)
  /-- `LD Vx,DT` FX07 (R171). -/
  | ldVxDt (x : RegIdx)
  /-- `LD Vx,K` FX0A (R163). -/
  | ldVxK (x : RegIdx)
  /-- `LD DT,Vx` FX15 (R172). -/
  | ldDtVx (x : RegIdx)
  /-- `LD ST,Vx` FX18 (R173). -/
  | ldStVx (x : RegIdx)
  /-- `ADD I,Vx` FX1E (R142). -/
  | addI (x : RegIdx)
  /-- `LD F,Vx` FX29 (R143). -/
  | ldF (x : RegIdx)
  /-- `LD B,Vx` FX33 (R144). -/
  | ldB (x : RegIdx)
  /-- `LD [I],Vx` FX55 (R145). -/
  | dump (x : RegIdx)
  /-- `LD Vx,[I]` FX65 (R146). -/
  | load (x : RegIdx)
  /-- `DW 0xhhhh`: a word that matches none of the 34 rows (R76, R95); it keeps the word. -/
  | nop (w : Word)
  deriving DecidableEq, Repr

end Sys2Proof
end

