-- ==== Sys2Proof/Decode.lean ====
section
/-! DEFINITION. Decoding and encoding (`30_encoding.md`): the fields of R72, the two-level decision
of R73, the opcode map of R75, the encoding function of R81. -/

namespace Sys2Proof

/-- `class = w[15:12]` (R72). -/
def fieldClass (w : Word) : BitVec 4 := w.extractLsb' 12 4

/-- `X = w[11:8]` (R72). -/
def fieldX (w : Word) : RegIdx := w.extractLsb' 8 4

/-- `Y = w[7:4]` (R72). -/
def fieldY (w : Word) : RegIdx := w.extractLsb' 4 4

/-- `N = w[3:0]` (R72). -/
def fieldN (w : Word) : RowCount := w.extractLsb' 0 4

/-- `NN = w[7:0]` (R72). -/
def fieldNN (w : Word) : Byte := w.extractLsb' 0 8

/-- `NNN = w[11:0]` (R72). -/
def fieldNNN (w : Word) : Addr := w.extractLsb' 0 12

/-- Class 0x0: discriminated on the whole word (R73). -/
def decodeSystem (w : Word) : Instr :=
  if w = 0x00E0#16 then .cls else if w = 0x00EE#16 then .ret else .nop w

/-- Class 0x8, the arithmetic family: second level on `w[3:0]` (R73, R75). -/
def decodeArith (w : Word) : Instr :=
  match (fieldN w).toNat with
  | 0x0 => .ldReg (fieldX w) (fieldY w)
  | 0x1 => .orReg (fieldX w) (fieldY w)
  | 0x2 => .andReg (fieldX w) (fieldY w)
  | 0x3 => .xorReg (fieldX w) (fieldY w)
  | 0x4 => .addReg (fieldX w) (fieldY w)
  | 0x5 => .sub (fieldX w) (fieldY w)
  | 0x6 => .shr (fieldX w) (fieldY w)
  | 0x7 => .subn (fieldX w) (fieldY w)
  | 0xE => .shl (fieldX w) (fieldY w)
  | _ => .nop w

/-- Class 0xE, the key skips: second level on `w[7:0]` (R73). -/
def decodeKeySkip (w : Word) : Instr :=
  match (fieldNN w).toNat with
  | 0x9E => .skp (fieldX w)
  | 0xA1 => .sknp (fieldX w)
  | _ => .nop w

/-- Class 0xF, the memory family: second level on `w[7:0]` (R73, R75). -/
def decodeMisc (w : Word) : Instr :=
  match (fieldNN w).toNat with
  | 0x07 => .ldVxDt (fieldX w)
  | 0x0A => .ldVxK (fieldX w)
  | 0x15 => .ldDtVx (fieldX w)
  | 0x18 => .ldStVx (fieldX w)
  | 0x1E => .addI (fieldX w)
  | 0x29 => .ldF (fieldX w)
  | 0x33 => .ldB (fieldX w)
  | 0x55 => .dump (fieldX w)
  | 0x65 => .load (fieldX w)
  | _ => .nop w

/-- `decode(w)` of R92 (`40_fetch_decode.md`): first on the class, then on the sub-opcode (R73, strict:
the spec's decision D9, log entry 11). Total on 16-bit words, and it depends on the word alone (R74). -/
def decodeWord (w : Word) : Instr :=
  match (fieldClass w).toNat with
  | 0x0 => decodeSystem w
  | 0x1 => .jp (fieldNNN w)
  | 0x2 => .call (fieldNNN w)
  | 0x3 => .seImm (fieldX w) (fieldNN w)
  | 0x4 => .sneImm (fieldX w) (fieldNN w)
  | 0x5 => if fieldN w = 0#4 then .seReg (fieldX w) (fieldY w) else .nop w
  | 0x6 => .ldImm (fieldX w) (fieldNN w)
  | 0x7 => .addImm (fieldX w) (fieldNN w)
  | 0x8 => decodeArith w
  | 0x9 => if fieldN w = 0#4 then .sneReg (fieldX w) (fieldY w) else .nop w
  | 0xA => .ldI (fieldNNN w)
  | 0xB => .jpV0 (fieldNNN w)
  | 0xC => .rnd (fieldX w) (fieldNN w)
  | 0xD => .drw (fieldX w) (fieldY w) (fieldN w)
  | 0xE => decodeKeySkip w
  | _ => decodeMisc w

/-- The instruction word in two bytes at ascending addresses, the high byte first (R51 `20_memory.md`). -/
def wordOfBytes (hi lo : Byte) : Word := hi.setWidth 16 <<< 8 ||| lo.setWidth 16

/-- The byte at the lower address: bits 15:8 (R51 `20_memory.md`). -/
def highByte (w : Word) : Byte := w.extractLsb' 8 8

/-- The byte at the higher address: bits 7:0 (R51 `20_memory.md`). -/
def lowByte (w : Word) : Byte := w.extractLsb' 0 8

/-- Why bytes hold no instruction. Raised by `decode` alone; safe: no word is refused (R76). -/
inductive DecodeError where
  /-- Fewer than the 2 bytes of an instruction (R70). -/
  | truncated
  deriving DecidableEq, Repr

/-- The instruction at the head of a byte string, and the bytes after it (R70, R51). -/
def decode : List Byte → Except DecodeError (Instr × List Byte)
  | hi :: lo :: rest => .ok (decodeWord (wordOfBytes hi lo), rest)
  | _ => .error .truncated

/-- The instruction read from a table word whose bit 0 is the least significant bit of the word; bits
above `nbits` are 0. The word is laid out big-endian and given to `decode`. -/
def decodeTableWord (nbits w : Nat) : Option Instr :=
  if nbits ≤ 16 then
    let word : Word := BitVec.ofNat 16 (w % 2 ^ nbits)
    match decode [highByte word, lowByte word] with
    | .ok (i, _) => some i
    | .error _ => none
  else none

/-- `match | NNN` (R81). -/
def wordNNN (pattern : Word) (nnn : Addr) : Word := pattern ||| nnn.setWidth 16

/-- `match | (X << 8) | NN` (R81). -/
def wordXNN (pattern : Word) (x : RegIdx) (nn : Byte) : Word :=
  pattern ||| x.setWidth 16 <<< 8 ||| nn.setWidth 16

/-- `match | (X << 8) | (Y << 4) | N` (R81). -/
def wordXYN (pattern : Word) (x y : RegIdx) (n : RowCount) : Word :=
  pattern ||| x.setWidth 16 <<< 8 ||| y.setWidth 16 <<< 4 ||| n.setWidth 16

/-- The encoding function of R81: the row's match value with its fields, absent fields 0. For
`shr` and `shl` an assembler takes Y = 0 (R81); every Y encodes, since every Y decodes (R77). -/
def encode : Instr → Word
  | .cls => 0x00E0#16
  | .ret => 0x00EE#16
  | .jp nnn => wordNNN 0x1000#16 nnn
  | .call nnn => wordNNN 0x2000#16 nnn
  | .seImm x nn => wordXNN 0x3000#16 x nn
  | .sneImm x nn => wordXNN 0x4000#16 x nn
  | .seReg x y => wordXYN 0x5000#16 x y 0#4
  | .ldImm x nn => wordXNN 0x6000#16 x nn
  | .addImm x nn => wordXNN 0x7000#16 x nn
  | .ldReg x y => wordXYN 0x8000#16 x y 0#4
  | .orReg x y => wordXYN 0x8001#16 x y 0#4
  | .andReg x y => wordXYN 0x8002#16 x y 0#4
  | .xorReg x y => wordXYN 0x8003#16 x y 0#4
  | .addReg x y => wordXYN 0x8004#16 x y 0#4
  | .sub x y => wordXYN 0x8005#16 x y 0#4
  | .shr x y => wordXYN 0x8006#16 x y 0#4
  | .subn x y => wordXYN 0x8007#16 x y 0#4
  | .shl x y => wordXYN 0x800E#16 x y 0#4
  | .sneReg x y => wordXYN 0x9000#16 x y 0#4
  | .ldI nnn => wordNNN 0xA000#16 nnn
  | .jpV0 nnn => wordNNN 0xB000#16 nnn
  | .rnd x nn => wordXNN 0xC000#16 x nn
  | .drw x y n => wordXYN 0xD000#16 x y n
  | .skp x => wordXNN 0xE09E#16 x 0#8
  | .sknp x => wordXNN 0xE0A1#16 x 0#8
  | .ldVxDt x => wordXNN 0xF007#16 x 0#8
  | .ldVxK x => wordXNN 0xF00A#16 x 0#8
  | .ldDtVx x => wordXNN 0xF015#16 x 0#8
  | .ldStVx x => wordXNN 0xF018#16 x 0#8
  | .addI x => wordXNN 0xF01E#16 x 0#8
  | .ldF x => wordXNN 0xF029#16 x 0#8
  | .ldB x => wordXNN 0xF033#16 x 0#8
  | .dump x => wordXNN 0xF055#16 x 0#8
  | .load x => wordXNN 0xF065#16 x 0#8
  | .nop w => w

/-- One row of the opcode map of R75: its number in the first column, its mask and its match value. -/
structure OpcodeRow where
  number : Nat
  mask : Word
  pattern : Word
  deriving DecidableEq, Repr

/-- The word `w` selects the row iff `w & mask = match` (R75). -/
def OpcodeRow.selects (r : OpcodeRow) (w : Word) : Bool := w &&& r.mask == r.pattern

/-- Rows 1 to 17 of R75. -/
def opcodeRowsLow : List OpcodeRow :=
  [⟨1, 0xFFFF#16, 0x00E0#16⟩, ⟨2, 0xFFFF#16, 0x00EE#16⟩, ⟨3, 0xF000#16, 0x1000#16⟩, ⟨4, 0xF000#16, 0x2000#16⟩,
   ⟨5, 0xF000#16, 0x3000#16⟩, ⟨6, 0xF000#16, 0x4000#16⟩, ⟨7, 0xF00F#16, 0x5000#16⟩, ⟨8, 0xF000#16, 0x6000#16⟩,
   ⟨9, 0xF000#16, 0x7000#16⟩, ⟨10, 0xF00F#16, 0x8000#16⟩, ⟨11, 0xF00F#16, 0x8001#16⟩, ⟨12, 0xF00F#16, 0x8002#16⟩,
   ⟨13, 0xF00F#16, 0x8003#16⟩, ⟨14, 0xF00F#16, 0x8004#16⟩, ⟨15, 0xF00F#16, 0x8005#16⟩, ⟨16, 0xF00F#16, 0x8006#16⟩,
   ⟨17, 0xF00F#16, 0x8007#16⟩]

/-- Rows 18 to 34 of R75. -/
def opcodeRowsHigh : List OpcodeRow :=
  [⟨18, 0xF00F#16, 0x800E#16⟩, ⟨19, 0xF00F#16, 0x9000#16⟩, ⟨20, 0xF000#16, 0xA000#16⟩, ⟨21, 0xF000#16, 0xB000#16⟩,
   ⟨22, 0xF000#16, 0xC000#16⟩, ⟨23, 0xF000#16, 0xD000#16⟩, ⟨24, 0xF0FF#16, 0xE09E#16⟩, ⟨25, 0xF0FF#16, 0xE0A1#16⟩,
   ⟨26, 0xF0FF#16, 0xF007#16⟩, ⟨27, 0xF0FF#16, 0xF00A#16⟩, ⟨28, 0xF0FF#16, 0xF015#16⟩, ⟨29, 0xF0FF#16, 0xF018#16⟩,
   ⟨30, 0xF0FF#16, 0xF01E#16⟩, ⟨31, 0xF0FF#16, 0xF029#16⟩, ⟨32, 0xF0FF#16, 0xF033#16⟩, ⟨33, 0xF0FF#16, 0xF055#16⟩,
   ⟨34, 0xF0FF#16, 0xF065#16⟩]

/-- The opcode map of R75: the 34 defined instructions. -/
def opcodeRows : List OpcodeRow := opcodeRowsLow ++ opcodeRowsHigh

/-- The row of R75 an instruction belongs to; 35 is the fallback row of R73. -/
def Instr.rowNumber : Instr → Nat
  | .cls => 1
  | .ret => 2
  | .jp _ => 3
  | .call _ => 4
  | .seImm _ _ => 5
  | .sneImm _ _ => 6
  | .seReg _ _ => 7
  | .ldImm _ _ => 8
  | .addImm _ _ => 9
  | .ldReg _ _ => 10
  | .orReg _ _ => 11
  | .andReg _ _ => 12
  | .xorReg _ _ => 13
  | .addReg _ _ => 14
  | .sub _ _ => 15
  | .shr _ _ => 16
  | .subn _ _ => 17
  | .shl _ _ => 18
  | .sneReg _ _ => 19
  | .ldI _ => 20
  | .jpV0 _ => 21
  | .rnd _ _ => 22
  | .drw _ _ _ => 23
  | .skp _ => 24
  | .sknp _ => 25
  | .ldVxDt _ => 26
  | .ldVxK _ => 27
  | .ldDtVx _ => 28
  | .ldStVx _ => 29
  | .addI _ => 30
  | .ldF _ => 31
  | .ldB _ => 32
  | .dump _ => 33
  | .load _ => 34
  | .nop _ => 35

/-- An unmatched encoding: a word that no row of R75 selects (R76). -/
def unmatched (w : Word) : Bool := opcodeRows.all fun r => !r.selects w

end Sys2Proof
end

