-- ==== Sys2Proof/Config.lean ====
section
/-! DEFINITION. What is fixed for the machine (R7 `00_scope.md`) and what the spec leaves free
(R8 `00_scope.md`). The 80 font bytes stand in `Machine/Ops.lean` beside the memory operations. -/

namespace Sys2Proof

/-- `MEM_SIZE`: addresses 0x000 to 0xFFF (R7 `00_scope.md`). -/
abbrev Config.memSize : Nat := 4096

/-- `PROG_BASE` (R7 `00_scope.md`): where `LOAD` puts a program. -/
abbrev Config.progBase : Nat := 0x200

/-- `PROG_MAX` = 4096 - 0x200 (R7 `00_scope.md`): the longest program `LOAD` takes. -/
abbrev Config.progMax : Nat := 3584

/-- `RESET_PC` (R7 `00_scope.md`, R212 `70_reset_and_hazards.md`). -/
abbrev Config.resetPc : Word := 0x200#16

/-- The byte `rand` of R8 (`00_scope.md`) and R132 (`42_alu.md`): the k-th draw, a FREE VALUE with no
body. DESIGN CHOICE, safe: the steps number their draws (`State.draws`) and every claim holds whatever
bytes this function gives. Log entries 1 and 2. -/
opaque Config.randomByte : Nat → Byte

end Sys2Proof
end

