-- ==== Sys2Proof/Machine/State.lean ====
section
/-! DEFINITION. The state of the core (R20, R21 `10_state.md`), the fault causes of R182
(`60_exceptions.md`), the reasons a step or a host operation can stop, and the state after `INIT`. -/

namespace Sys2Proof.Machine

/-- Memory (R22 `10_state.md`): the bytes that differ from what `INIT` leaves, as (address, byte) pairs.
`Memory.wf` (`Ops.lean`) is its canonical form, `Memory.resetByte` what an unlisted address reads as. -/
abbrev Memory := List Host.Cell

/-- The frame buffer `FB[x][y]`: 64 columns of 32 one-bit pixels, `true` = lit (R30 `10_state.md`). -/
abbrev FrameBuffer := Vector (Vector Bool 32) 64

/-- The five fault causes (R182 `60_exceptions.md`). -/
inductive Cause where
  /-- Code 1: fetch with `PC > 0xFFE`. -/
  | fetchOutOfRange
  /-- Code 2: a data range that reaches above 0xFFF. -/
  | memOutOfRange
  /-- Code 3: `CALL` with `SP = 16`. -/
  | stackOverflow
  /-- Code 4: `RET` with `SP = 0`. -/
  | stackUnderflow
  /-- Code 5: `SKP` or `SKNP` with `V[X] > 15`. -/
  | keyIndexOutOfRange
  deriving DecidableEq, Repr

/-- The execution status (R32, R33 `10_state.md`). -/
inductive Status where
  /-- The default state. -/
  | running
  /-- The blocking-read sub-state: `t` receives the pressed key's index (R32). -/
  | awaitingKey (t : RegIdx)
  /-- The sticky stopped condition (R33, R181): its cause and its 16-bit `info`. -/
  | faulted (cause : Cause) (info : Word)
  deriving DecidableEq, Repr

/-- The complete state of the core: exactly the fourteen components of R20 (`10_state.md`), and no other (R21). -/
structure CoreState where
  /-- Memory, 4096 bytes (R22). -/
  mem : Memory
  /-- General registers `V[0]` to `V[15]` (R24). -/
  v : Vector Byte 16
  /-- Index register `I` (R37). -/
  i : Word
  /-- Program counter `PC` (R26). -/
  pc : Word
  /-- Return stack `stack[0]` to `stack[15]` (R28). -/
  stack : Vector Word 16
  /-- Stack pointer `SP`, 0 to 16: the number of entries in use (R28). -/
  sp : Fin 17
  /-- Delay timer `DT` (R29). -/
  dt : Byte
  /-- Sound timer `ST` (R29). -/
  st : Byte
  /-- Frame buffer `FB` (R30). -/
  fb : FrameBuffer
  /-- Redraw flag (R34). -/
  redraw : Bool
  /-- Key states `key[0]` to `key[15]`, `true` = down (R31). -/
  keys : Vector Bool 16
  /-- Execution status (R32, R33). -/
  status : Status
  /-- Sound pending flag (R35). -/
  soundPending : Bool
  /-- Sound duration (R36). -/
  soundDuration : Byte
  deriving DecidableEq, Repr

/-- What a step runs on: the core's state, and which of the free bytes `rand` (an INPUT, R8 `00_scope.md`) the
next RND is given. `draws` is no component of the core: no host operation reads or writes it. -/
structure State extends CoreState where
  /-- THE MODEL'S OWN: how many bytes `rand` the steps have taken (R8; log entries 1 and 2). -/
  draws : Nat
  deriving DecidableEq, Repr

/-- Reasons of the host interface's `fault` outcome: there are none. What the spec calls a fault is a
STATUS the machine goes on in (R33, R181), so it is a next state. Safe: no behaviour is cut off. Log entry 6. -/
inductive Fault where
  deriving DecidableEq, Repr

/-- Reasons an operation is refused. No instruction refuses; the last three are raised by the host
operations of `HostOps.lean` for calls outside their contract, and are safe: the spec refuses them too. -/
inductive Refusal where
  /-- Raised by an arm of `exec` whose instruction has no meaning yet (none). Safe. -/
  | notModelled (mnemonic : String)
  /-- Raised by `SETKEY(k, _)` with `k > 15` (R192 `60_exceptions.md`). Safe: "the model refuses it (no move)". -/
  | keyOutsideContract (k : Nat)
  /-- Raised by `PIXEL(x, y)` outside the 64 x 32 grid (R195 `60_exceptions.md`). Safe: refused by the spec. -/
  | pixelOutsideGrid (x y : Nat)
  /-- Raised by `LOAD` of more than 3584 bytes (R214 `70_reset_and_hazards.md`). Safe: refused by the spec. -/
  | programTooLong (len : Nat)
  deriving DecidableEq, Repr

/-- The outcomes of a step or of a host operation. -/
abbrev Result := Host.Outcome State Fault Refusal

/-- The state right after `INIT` (R210 `70_reset_and_hazards.md`): the font in memory (`Memory.resetByte`),
`PC = 0x200`, `Running`, all else 0. `draws` is 0 by DESIGN CHOICE (log entry 2). -/
def State.reset : State where
  mem := []
  v := Vector.replicate 16 0#8
  i := 0#16
  pc := Config.resetPc
  stack := Vector.replicate 16 0#16
  sp := 0
  dt := 0#8
  st := 0#8
  fb := Vector.replicate 64 (Vector.replicate 32 false)
  redraw := false
  keys := Vector.replicate 16 false
  status := .running
  soundPending := false
  soundDuration := 0#8
  draws := 0

end Sys2Proof.Machine
end

