-- ==== Sys2Proof/Machine/Ops.lean ====
section
/-! DEFINITION. The named operations over memory, registers, stack, display, keys and status; taking a
fault (R181 `60_exceptions.md`) and leaving it (R183, R210). -/

namespace Sys2Proof.Machine

/-! ### Memory (`20_memory.md`) -/

/-- Glyphs 0 to 7 of the font, top row first (R23 `10_state.md`). -/
def fontBytesLow : List Byte :=
  [0xF0, 0x90, 0x90, 0x90, 0xF0] ++ [0x20, 0x60, 0x20, 0x20, 0x70] ++
  [0xF0, 0x10, 0xF0, 0x80, 0xF0] ++ [0xF0, 0x10, 0xF0, 0x10, 0xF0] ++
  [0x90, 0x90, 0xF0, 0x10, 0x10] ++ [0xF0, 0x80, 0xF0, 0x10, 0xF0] ++
  [0xF0, 0x80, 0xF0, 0x90, 0xF0] ++ [0xF0, 0x10, 0x20, 0x40, 0x40]

/-- Glyphs 8 to F of the font, top row first (R23 `10_state.md`). -/
def fontBytesHigh : List Byte :=
  [0xF0, 0x90, 0xF0, 0x90, 0xF0] ++ [0xF0, 0x90, 0xF0, 0x10, 0xF0] ++
  [0xF0, 0x90, 0xF0, 0x90, 0x90] ++ [0xE0, 0x90, 0xE0, 0x90, 0xE0] ++
  [0xF0, 0x80, 0x80, 0x80, 0xF0] ++ [0xE0, 0x90, 0x90, 0x90, 0xE0] ++
  [0xF0, 0x80, 0xF0, 0x80, 0xF0] ++ [0xF0, 0x80, 0xF0, 0x80, 0x80]

/-- The parameter `FONT` at the spec's default (R8 `00_scope.md`, R23 `10_state.md`). PRESUMED: the spec has the 80 bytes
from general knowledge; unsafe where a claim rests on them. Log entry 3. -/
def fontBytes : List Byte := fontBytesLow ++ fontBytesHigh

/-- What an address holds after `INIT`, and so what an unlisted address reads as: `FONT` at 0x000 to
0x04F, 0 elsewhere (R23 `10_state.md`, R50 `20_memory.md`). -/
def Memory.resetByte (a : Nat) : Byte := fontBytes.getD a 0#8

/-- `MemRead(a, 1)` (R11 `00_scope.md`). Every caller has checked the range (R53); no access is made
above 0xFFF (log entry 7). -/
def Memory.read : Memory → Nat → Byte
  | [], a => Memory.resetByte a
  | (b, v) :: m, a => if a = b then v else Memory.read m a

/-- `MemWrite(a, 1, v)` (R11 `00_scope.md`), keeping the canonical form: in address order, and no entry
that equals what an unlisted address reads as. -/
def Memory.write : Memory → Nat → Byte → Memory
  | [], a, v => if v = Memory.resetByte a then [] else [(a, v)]
  | (b, w) :: m, a, v =>
    if a < b then
      if v = Memory.resetByte a then (b, w) :: m else (a, v) :: (b, w) :: m
    else if a = b then
      if v = Memory.resetByte a then m else (a, v) :: m
    else (b, w) :: Memory.write m a v

/-- The `n` bytes at `a`, `a + 1`, ... (R54, R140). -/
def Memory.readBytes (m : Memory) : Nat → Nat → List Byte
  | _, 0 => []
  | a, n + 1 => m.read a :: Memory.readBytes m (a + 1) n

/-- Store bytes at `a`, `a + 1`, ... in this order (R54, R140). -/
def Memory.writeBytes : Memory → Nat → List Byte → Memory
  | m, _, [] => m
  | m, a, b :: bs => Memory.writeBytes (m.write a b) (a + 1) bs

/-- The canonical form from address `lo` up: addresses strictly rising, inside the address space, no
entry equal to what an unlisted address reads as. -/
def Memory.wfFrom : Nat → Memory → Bool
  | _, [] => true
  | lo, (a, v) :: m =>
    decide (lo ≤ a) && decide (a < Config.memSize) && decide (v ≠ Memory.resetByte a) && Memory.wfFrom (a + 1) m

/-- The canonical form of memory. -/
def Memory.wf (m : Memory) : Bool := Memory.wfFrom 0 m

/-! ### State updates, one per component -/

/-- `PC <- a` (R26 `10_state.md`). -/
def State.setPc (s : State) (a : Word) : State := { s with pc := a }

/-- `I <- a` (R37 `10_state.md`). -/
def State.setIndex (s : State) (a : Word) : State := { s with i := a }

/-- Memory after stores (R22 `10_state.md`). -/
def State.setMem (s : State) (m : Memory) : State := { s with mem := m }

/-- All sixteen general registers at once (R24 `10_state.md`). -/
def State.setRegs (s : State) (v : Vector Byte 16) : State := { s with v := v }

/-- `DT <- b` (R29 `10_state.md`). -/
def State.setDelay (s : State) (b : Byte) : State := { s with dt := b }

/-- `ST <- b` (R29 `10_state.md`). -/
def State.setSound (s : State) (b : Byte) : State := { s with st := b }

/-- The frame buffer after a draw or a clear (R30 `10_state.md`). -/
def State.setPixels (s : State) (fb : FrameBuffer) : State := { s with fb := fb }

/-- `redraw <- b` (R34 `10_state.md`). -/
def State.setRedraw (s : State) (b : Bool) : State := { s with redraw := b }

/-- All sixteen key states (R31 `10_state.md`). -/
def State.setKeys (s : State) (keys : Vector Bool 16) : State := { s with keys := keys }

/-- `status <- x` (R32 `10_state.md`). -/
def State.setStatus (s : State) (x : Status) : State := { s with status := x }

/-- `sound_pending <- b` (R35 `10_state.md`). -/
def State.setPending (s : State) (b : Bool) : State := { s with soundPending := b }

/-- `sound_duration <- b` (R36 `10_state.md`). -/
def State.setDuration (s : State) (b : Byte) : State := { s with soundDuration := b }

/-- A step has taken one byte `rand` (R8 `00_scope.md`; log entry 2). -/
def State.nextDraw (s : State) : State := { s with draws := s.draws + 1 }

/-! ### General registers (R24) -/

/-- `V[r]` (R11 `00_scope.md`). -/
def State.readV (s : State) (r : RegIdx) : Byte := s.v[r.toNat]'r.isLt

/-- `V[r] <- b` (R11 `00_scope.md`). -/
def State.writeV (s : State) (r : RegIdx) (b : Byte) : State := s.setRegs (s.v.set r.toNat b r.isLt)

/-- The index of the flag register `VF` (R25 `10_state.md`). -/
abbrev flagReg : RegIdx := 0xF#4

/-! ### Program counter (R26) -/

/-- `PC <- PC + 2`, the ordinary end of an instruction (R26 `10_state.md`). -/
def State.advance (s : State) : State := s.setPc (s.pc + 2#16)

/-- A skip: `PC + 4` when taken, `PC + 2` otherwise (R26 `10_state.md`, R107 `41_control_flow.md`). -/
def State.skipIf (s : State) (taken : Bool) : State := s.setPc (if taken then s.pc + 4#16 else s.pc + 2#16)

/-! ### Return stack (R28) -/

/-- `stack[SP] <- a`, then `SP <- SP + 1` (R102 `41_control_flow.md`); used only with `SP < 16`. -/
def State.push (s : State) (a : Word) : State :=
  { s with stack := s.stack.setIfInBounds s.sp.val a, sp := ⟨min (s.sp.val + 1) 16, by omega⟩ }

/-- `SP <- SP - 1`; the entry keeps its value (R28 `10_state.md`, R100 `41_control_flow.md`). -/
def State.pop (s : State) : State := { s with sp := ⟨s.sp.val - 1, by omega⟩ }

/-- `stack[SP]`, the entry a `pop` has just freed (R100 `41_control_flow.md`). -/
def State.atStackPointer (s : State) : Word := s.stack[s.sp.val]?.getD 0#16

/-! ### Display (R150 `44_display.md`) -/

/-- `FB[x][y]`. -/
def pixelAt (fb : FrameBuffer) (x : Fin 64) (y : Fin 32) : Bool := fb[x.val][y.val]

/-- `FB[x][y] <- b`. -/
def setPixel (fb : FrameBuffer) (x : Fin 64) (y : Fin 32) (b : Bool) : FrameBuffer :=
  fb.set x.val (fb[x.val].set y.val b)

/-- Every pixel 0 (R151 `44_display.md`, R210 `70_reset_and_hazards.md`). -/
def blankScreen : FrameBuffer := Vector.replicate 64 (Vector.replicate 32 false)

/-! ### Keypad (R160 `45_keypad.md`) -/

/-- `key[k] = 1`, for a key index `k` of 0 to 15 that the caller has checked (R161, R162). -/
def State.keyDown (s : State) (k : Nat) : Bool := s.keys[k]?.getD false

/-- `min { k | key[k] = 1 }`, or none when every key is up (R163 `45_keypad.md`). -/
def lowestDown (keys : Vector Bool 16) : Option Nat := keys.toList.findIdx? fun down => down

/-! ### Faults (section 1 of `60_exceptions.md`) -/

/-- The cause codes of R182 (`60_exceptions.md`), the spec's numbering. -/
def Cause.code : Cause → Nat
  | .fetchOutOfRange => 1
  | .memOutOfRange => 2
  | .stackOverflow => 3
  | .stackUnderflow => 4
  | .keyIndexOutOfRange => 5

/-- TAKING A FAULT (R11 `raise`, R181 `60_exceptions.md`): the instruction is abandoned and the whole effect
is `status <- Faulted(cause, info)`. Nothing is saved, `PC` stays, there is no handler. -/
def raise (cause : Cause) (info : Word) (s : State) : Result := .next (s.setStatus (.faulted cause info))

/-- `INIT` (R210 `70_reset_and_hazards.md`), the only way out of `Faulted` (R183 `60_exceptions.md`; there is no return
instruction). It sets every component of the core (R20); `draws` is none: later draws stay fresh (log entry 2). -/
def initialise (s : State) : State := { s with toCoreState := State.reset.toCoreState }

end Sys2Proof.Machine
end

