-- ==== Sys2Proof/Machine/Operands.lean ====
section
/-! DEFINITION. The operand forms: zero-extended literals (R72 `30_encoding.md`), the one addressing mode
`I + k` with its range check (R53 `20_memory.md`, R140 `43_index_memory.md`), and the values the memory
instructions move. -/

namespace Sys2Proof.Machine

/-- `zext_16(NNN)`: a 12-bit literal address (R72 `30_encoding.md`). -/
def zextAddr (nnn : Addr) : Word := nnn.setWidth 16

/-- `zext_16(v)`: a register value in index or `PC` arithmetic (R11 `00_scope.md`). -/
def zextByte (b : Byte) : Word := b.setWidth 16

/-- The range `I .. I + n - 1` lies inside memory, as exact integers; an empty range always does
(R53 `20_memory.md`, R182 `60_exceptions.md`). -/
def rangeInMemory (i : Word) (n : Nat) : Bool := n == 0 || decide (i.toNat + n ≤ Config.memSize)

/-- `max(I, 0x1000)`: the lowest out-of-range address of a range that starts at `I` (R53 `20_memory.md`). -/
def lowestOutOfRange (i : Word) : Word := if i.toNat < 0x1000 then 0x1000#16 else i

/-- An instruction that accesses the `n` bytes at `I`: the range is checked before any byte moves, and a
range that leaves memory raises `MemOutOfRange(max(I, 0x1000))` (R53 `20_memory.md`, R140 `43_index_memory.md`). -/
def withRange (n : Nat) (s done : State) : Result :=
  if rangeInMemory s.i n then .next done else raise .memOutOfRange (lowestOutOfRange s.i) s

/-- `5 * zext_16(v)`: the address of glyph `v`; the whole byte is multiplied (R143 `43_index_memory.md`). -/
def glyphAddress (b : Byte) : Word := 5#16 * zextByte b

/-- The decimal digits of a byte: hundreds, tens, ones (R144 `43_index_memory.md`). -/
def bcdDigits (b : Byte) : List Byte :=
  [BitVec.ofNat 8 (b.toNat / 100), BitVec.ofNat 8 (b.toNat / 10 % 10), BitVec.ofNat 8 (b.toNat % 10)]

/-- `V[0]`, ..., `V[X]`, X + 1 bytes (R145 `43_index_memory.md`). -/
def State.lowRegs (s : State) (x : RegIdx) : List Byte := s.v.toList.take (x.toNat + 1)

/-- `V[k]`, `V[k + 1]`, ... from a byte string (R146 `43_index_memory.md`). -/
def fillRegs (v : Vector Byte 16) : Nat → List Byte → Vector Byte 16
  | _, [] => v
  | k, b :: bs => fillRegs (v.setIfInBounds k b) (k + 1) bs

end Sys2Proof.Machine
end

