-- ==== Sys2Proof/Machine/Flags.lean ====
section
/-! DEFINITION. The flag `VF` (R25 `10_state.md`): its values for the arithmetic family
(R120, R131 `42_alu.md`) and the order in which a flag-writing instruction writes (R121). -/

namespace Sys2Proof.Machine

/-- A flag outcome as the byte `VF` holds (R25 `10_state.md`). -/
def flagByte (f : Bool) : Byte := if f then 1#8 else 0#8

/-- Carry-out: 1 iff `a + b > 255`, the exact sum (R120, R126 `42_alu.md`). -/
def carryOut (a b : Byte) : Bool := decide (255 < a.toNat + b.toNat)

/-- The inverted borrow of `a - b`: 1 iff `a >= b` (R120, R127 `42_alu.md`). -/
def notBorrow (a b : Byte) : Bool := decide (b.toNat ≤ a.toNat)

/-- The bit a right shift shifts out: `a[0]` (R128 `42_alu.md`). -/
def lowBit (a : Byte) : Bool := a.getLsbD 0

/-- The bit a left shift shifts out: `a[7]` (R130 `42_alu.md`). -/
def highBit (a : Byte) : Bool := a.getLsbD 7

/-- `VF <- flag`, THEN `V[X] <- result`, both from operands latched before (R121 `42_alu.md`, the spec's
decision D10): with X = 15 the result remains. Log entry 12. -/
def State.writeFlagged (s : State) (flag : Bool) (x : RegIdx) (result : Byte) : State :=
  (s.writeV flagReg (flagByte flag)).writeV x result

end Sys2Proof.Machine
end

