-- ==== Sys2Proof/Machine/Alu.lean ====
section
/-! DEFINITION. The register and ALU instructions (`42_alu.md`): unsigned 8-bit, modulo 256 (R120). -/

namespace Sys2Proof.Machine

/-- `LD Vx,NN` (R122). -/
def execLdImm (x : RegIdx) (nn : Byte) (s : State) : Result := .next (s.writeV x nn).advance

/-- `ADD Vx,NN` (R123): no flag change. -/
def execAddImm (x : RegIdx) (nn : Byte) (s : State) : Result := .next (s.writeV x (s.readV x + nn)).advance

/-- `LD Vx,Vy` (R124). -/
def execLdReg (x y : RegIdx) (s : State) : Result := .next (s.writeV x (s.readV y)).advance

/-- `OR Vx,Vy` (R125): `VF` is not modified. -/
def execOrReg (x y : RegIdx) (s : State) : Result := .next (s.writeV x (s.readV x ||| s.readV y)).advance

/-- `AND Vx,Vy` (R125): `VF` is not modified. -/
def execAndReg (x y : RegIdx) (s : State) : Result := .next (s.writeV x (s.readV x &&& s.readV y)).advance

/-- `XOR Vx,Vy` (R125): `VF` is not modified. -/
def execXorReg (x y : RegIdx) (s : State) : Result := .next (s.writeV x (s.readV x ^^^ s.readV y)).advance

/-- `ADD Vx,Vy` (R126): `VF` = carry-out. -/
def execAddReg (x y : RegIdx) (s : State) : Result :=
  let a := s.readV x
  let b := s.readV y
  .next (s.writeFlagged (carryOut a b) x (a + b)).advance

/-- `SUB Vx,Vy` (R127): `VF` = not borrow of `V[X] - V[Y]`. -/
def execSub (x y : RegIdx) (s : State) : Result :=
  let a := s.readV x
  let b := s.readV y
  .next (s.writeFlagged (notBorrow a b) x (a - b)).advance

/-- `SHR Vx` (R128): `VF` = old bit 0; the Y field is ignored (R77 `30_encoding.md`). -/
def execShr (x _y : RegIdx) (s : State) : Result :=
  let a := s.readV x
  .next (s.writeFlagged (lowBit a) x (a >>> 1)).advance

/-- `SUBN Vx,Vy` (R129): `VF` = not borrow of `V[Y] - V[X]`. -/
def execSubn (x y : RegIdx) (s : State) : Result :=
  let a := s.readV x
  let b := s.readV y
  .next (s.writeFlagged (notBorrow b a) x (b - a)).advance

/-- `SHL Vx` (R130): `VF` = old bit 7; the Y field is ignored (R77 `30_encoding.md`). -/
def execShl (x _y : RegIdx) (s : State) : Result :=
  let a := s.readV x
  .next (s.writeFlagged (highBit a) x (a <<< 1)).advance

/-- R132's pseudocode, with the byte `rand` of this CYCLE as its argument. -/
def maskRandom (rand : Byte) (x : RegIdx) (nn : Byte) (s : State) : Result := .next (s.writeV x (rand &&& nn)).advance

/-- `RND Vx,NN` (R132), given the next free byte: each execution takes a fresh one (log entries 1 and 2). -/
def execRnd (x : RegIdx) (nn : Byte) (s : State) : Result := maskRandom (Config.randomByte s.draws) x nn s.nextDraw

end Sys2Proof.Machine
end

