-- ==== Sys2Proof/Machine/Control.lean ====
section
/-! DEFINITION. The control-transfer instructions (`41_control_flow.md`) and the unmatched no-op
(R95 `40_fetch_decode.md`). -/

namespace Sys2Proof.Machine

/-- `RET` (R100): with `SP = 0` StackUnderflow(PC); else pop, and `PC <- stack[SP] + 2`. -/
def execRet (s : State) : Result :=
  if s.sp.val = 0 then raise .stackUnderflow s.pc s
  else .next (s.pop.setPc (s.pop.atStackPointer + 2#16))

/-- `JP NNN` (R101). -/
def execJp (nnn : Addr) (s : State) : Result := .next (s.setPc (zextAddr nnn))

/-- `CALL NNN` (R102): with `SP = 16` StackOverflow(PC); else push this instruction's own address. -/
def execCall (nnn : Addr) (s : State) : Result :=
  if s.sp.val = 16 then raise .stackOverflow s.pc s
  else .next ((s.push s.pc).setPc (zextAddr nnn))

/-- `SE Vx,NN` (R103). -/
def execSeImm (x : RegIdx) (nn : Byte) (s : State) : Result := .next (s.skipIf (s.readV x == nn))

/-- `SNE Vx,NN` (R104). -/
def execSneImm (x : RegIdx) (nn : Byte) (s : State) : Result := .next (s.skipIf (s.readV x != nn))

/-- `SE Vx,Vy` (R105). -/
def execSeReg (x y : RegIdx) (s : State) : Result := .next (s.skipIf (s.readV x == s.readV y))

/-- `SNE Vx,Vy` (R106). -/
def execSneReg (x y : RegIdx) (s : State) : Result := .next (s.skipIf (s.readV x != s.readV y))

/-- `JP V0,NNN` (R108): the 16-bit sum, not reduced modulo 4096. -/
def execJpV0 (nnn : Addr) (s : State) : Result := .next (s.setPc (zextByte (s.readV 0#4) + zextAddr nnn))

/-- An unmatched encoding (R95 `40_fetch_decode.md`): only `PC` advances, whatever the word. -/
def execNop (_w : Word) (s : State) : Result := .next s.advance

end Sys2Proof.Machine
end

