-- ==== Sys2Proof/Machine/Display.lean ====
section
/-! DEFINITION. The display instructions (`44_display.md`) and the XOR-blit of R152. -/

namespace Sys2Proof.Machine

/-- `px = (vx + c) mod 64` (R152). -/
def wrapX (n : Nat) : Fin 64 := Fin.ofNat 64 n

/-- `py = (vy + r) mod 32` (R152). -/
def wrapY (n : Nat) : Fin 32 := Fin.ofNat 32 n

/-- One sprite bit (the body of R152's loops), on the frame buffer and the collision found so far: a bit
of 1 toggles its pixel, and turning off a lit pixel is a collision. -/
def blitBit (x : Fin 64) (y : Fin 32) (bit : Bool) (d : FrameBuffer × Bool) : FrameBuffer × Bool :=
  if bit then (setPixel d.1 x y (!pixelAt d.1 x y), d.2 || pixelAt d.1 x y) else d

/-- The first `n` columns of one sprite row, left to right: bit `7 - c` of the byte is column `c` (R152, the spec's
decision D11; log entry 13). -/
def blitCols (vx : Nat) (y : Fin 32) (b : Byte) : Nat → FrameBuffer × Bool → FrameBuffer × Bool
  | 0, d => d
  | c + 1, d => blitBit (wrapX (vx + c)) y (b.getLsbD (7 - c)) (blitCols vx y b c d)

/-- Sprite rows `r`, `r + 1`, ... downward, one byte each (R152). -/
def blitRows (vx vy : Nat) : Nat → List Byte → FrameBuffer × Bool → FrameBuffer × Bool
  | _, [], d => d
  | r, b :: bs, d => blitRows vx vy (r + 1) bs (blitCols vx (wrapY (vy + r)) b 8 d)

/-- `CLS` (R151): every pixel 0, `redraw` raised, `VF` unchanged. -/
def execCls (s : State) : Result := .next ((s.setPixels blankScreen).setRedraw true).advance

/-- `DRW Vx,Vy,N` (R152): `V[X]` and `V[Y]` are latched before `VF` is written; `VF` and `redraw` are written
by every draw, also with N = 0. -/
def execDrw (x y : RegIdx) (n : RowCount) (s : State) : Result :=
  let sprite := s.mem.readBytes s.i.toNat n.toNat
  let drawn := blitRows (s.readV x).toNat (s.readV y).toNat 0 sprite (s.fb, false)
  withRange n.toNat s (((s.setPixels drawn.1).writeV flagReg (flagByte drawn.2)).setRedraw true).advance

end Sys2Proof.Machine
end

