-- ==== Sys2Proof/Machine/IndexMem.lean ====
section
/-! DEFINITION. The index-register and memory instructions (`43_index_memory.md`). None of the loads and
stores changes `I` (R140). -/

namespace Sys2Proof.Machine

/-- `LD I,NNN` (R141). -/
def execLdI (nnn : Addr) (s : State) : Result := .next (s.setIndex (zextAddr nnn)).advance

/-- `ADD I,Vx` (R142): modulo 65536, `VF` is not written. -/
def execAddI (x : RegIdx) (s : State) : Result := .next (s.setIndex (s.i + zextByte (s.readV x))).advance

/-- `LD F,Vx` (R143). -/
def execLdF (x : RegIdx) (s : State) : Result := .next (s.setIndex (glyphAddress (s.readV x))).advance

/-- `LD B,Vx` (R144): three digits at `I`, `I + 1`, `I + 2`. -/
def execLdB (x : RegIdx) (s : State) : Result :=
  withRange 3 s (s.setMem (s.mem.writeBytes s.i.toNat (bcdDigits (s.readV x)))).advance

/-- `LD [I],Vx` (R145): `V[0]` to `V[X]` at `I` to `I + X`. -/
def execDump (x : RegIdx) (s : State) : Result :=
  withRange (x.toNat + 1) s (s.setMem (s.mem.writeBytes s.i.toNat (s.lowRegs x))).advance

/-- `LD Vx,[I]` (R146): `V[0]` to `V[X]` from `I` to `I + X`. -/
def execLoad (x : RegIdx) (s : State) : Result :=
  withRange (x.toNat + 1) s (s.setRegs (fillRegs s.v 0 (s.mem.readBytes s.i.toNat (x.toNat + 1)))).advance

end Sys2Proof.Machine
end

