-- ==== Sys2Proof/Machine/Keypad.lean ====
section
/-! DEFINITION. The keypad instructions (`45_keypad.md`). The completion of a waiting `LD Vx,K` is the
host's `SETKEY` (`HostOps.lean`, R193 `60_exceptions.md`). -/

namespace Sys2Proof.Machine

/-- The key test of `SKP` and `SKNP` on `k = V[X]`: above 15 KeyIndexOutOfRange(k), else skip when the
key is down (`wanted = true`) or up (`wanted = false`) (R161, R162). -/
def skipOnKey (wanted : Bool) (k : Byte) (s : State) : Result :=
  if 15 < k.toNat then raise .keyIndexOutOfRange (zextByte k) s
  else .next (s.skipIf (s.keyDown k.toNat == wanted))

/-- `SKP Vx` (R161). -/
def execSkp (x : RegIdx) (s : State) : Result := skipOnKey true (s.readV x) s

/-- `SKNP Vx` (R162). -/
def execSknp (x : RegIdx) (s : State) : Result := skipOnKey false (s.readV x) s

/-- `LD Vx,K` (R163): the lowest key that is down, or the wait with `PC` unchanged. -/
def execLdVxK (x : RegIdx) (s : State) : Result :=
  match lowestDown s.keys with
  | some k => .next (s.writeV x (BitVec.ofNat 8 k)).advance
  | none => .next (s.setStatus (.awaitingKey x))

end Sys2Proof.Machine
end

