-- ==== Sys2Proof/Machine/TimerSound.lean ====
section
/-! DEFINITION. The timer and sound instructions (`46_timers_sound.md`). -/

namespace Sys2Proof.Machine

/-- `LD Vx,DT` (R171). -/
def execLdVxDt (x : RegIdx) (s : State) : Result := .next (s.writeV x s.dt).advance

/-- `LD DT,Vx` (R172). -/
def execLdDtVx (x : RegIdx) (s : State) : Result := .next (s.setDelay (s.readV x)).advance

/-- `LD ST,Vx` (R173): with no sound pending `ST`, `sound_duration` and `sound_pending` are written; with a
sound pending the instruction stalls with no state change (the spec's decision D7, log entry 14). -/
def execLdStVx (x : RegIdx) (s : State) : Result :=
  if s.soundPending then .next s
  else .next (((s.setSound (s.readV x)).setDuration (s.readV x)).setPending true).advance

end Sys2Proof.Machine
end

