-- ==== Sys2Proof/Machine/Cycle.lean ====
section
/-! DEFINITION. The `CYCLE` operation (R90 to R96 `40_fetch_decode.md`): fetch, decode, execute. -/

namespace Sys2Proof.Machine

/-- `MemRead(PC, 2)`, big-endian (R91 `40_fetch_decode.md`, R51 `20_memory.md`). -/
def fetchWord (s : State) : Word := wordOfBytes (s.mem.read s.pc.toNat) (s.mem.read (s.pc.toNat + 1))

/-- The body of `CYCLE` (R90), over what executes the decoded instruction: nothing in `Faulted` (R96) or
`AwaitingKey` (R94); in `Running` a fetch above 0xFFE raises FetchOutOfRange(PC) (R91, R55 `20_memory.md`), and else
the fetched word is decoded and executed. -/
def runCycle (execute : Instr → State → Result) (s : State) : Result :=
  match s.status with
  | .faulted _ _ => .next s
  | .awaitingKey _ => .next s
  | .running =>
    if 0xFFE < s.pc.toNat then raise .fetchOutOfRange s.pc s
    else execute (decodeWord (fetchWord s)) s

/-- Execute an instruction "with rand if insn is RND" (R90): no other instruction reads `rand` (R132 `42_alu.md`). -/
def execWith (rand : Byte) (i : Instr) (s : State) : Result :=
  match i with
  | .rnd x nn => maskRandom rand x nn s
  | other => exec other s

/-- `CYCLE(rand)` (R90, R12 `00_scope.md`), with the byte the host supplies. -/
def cycleWith (rand : Byte) (s : State) : Result := runCycle (execWith rand) s

/-- `CYCLE` with the next free byte as its `rand` (log entry 1). -/
def cycle (s : State) : Result := runCycle exec s

/-- Where an instruction can be placed to be fetched next: at `PC`, or at 0x200 where `PC > 0xFFE` (R91). -/
def fetchablePc (s : State) : Word := if s.pc.toNat ≤ 0xFFE then s.pc else Config.resetPc

/-- The state with a table word stored where the next `CYCLE` fetches, big-endian (R51), and all that
this fetch needs: `Running`, and a `PC` that can be fetched at. Log entry 5. -/
def placeWord (s : State) (nbits w : Nat) : State :=
  let a := fetchablePc s
  let word : Word := BitVec.ofNat 16 (w % 2 ^ min nbits 16)
  ((s.setStatus .running).setPc a).setMem (s.mem.writeBytes a.toNat [highByte word, lowByte word])

end Sys2Proof.Machine
end

