-- ==== Sys2Proof/Machine/Step.lean ====
section
/-! DEFINITION. One step of the machine is one `CYCLE` (R90 `40_fetch_decode.md`; log entry 4). -/

namespace Sys2Proof.Machine

/-- One step: the `CYCLE` operation (R12 `00_scope.md`, R90 `40_fetch_decode.md`). -/
def step (s : State) : Host.Outcome State Fault Refusal := cycle s

/-- `s` with the table word `w` where `step` fetches its next instruction (log entry 5). -/
def State.withFetchWord (s : State) (nbits w : Nat) : State := placeWord s nbits w

end Sys2Proof.Machine
end

