-- ==== Sys2Proof/Machine/HostOps.lean ====
section
/-! DEFINITION. The host's operations and queries (R12 `00_scope.md`, section 2 of `60_exceptions.md`,
`70_reset_and_hazards.md`): each is one atomic transition, and any sequence of them is a run (R190). -/

namespace Sys2Proof.Machine

/-- `LOAD(bytes)` (R213): the bytes from 0x200 up and nothing else; more than 3584 is refused (R214).
Admitted in every status (R215). -/
def loadProgram (bytes : List Byte) (s : State) : Result :=
  if bytes.length ≤ Config.progMax then .next (s.setMem (s.mem.writeBytes Config.progBase bytes))
  else .refused (.programTooLong bytes.length)

/-- A timer after one tick: down by one, floor zero (R191). -/
def decay (b : Byte) : Byte := if b = 0#8 then 0#8 else b - 1#8

/-- `TICK` (R191): both timers, in every status. -/
def tickTimers (s : State) : State := (s.setDelay (decay s.dt)).setSound (decay s.st)

/-- `key[k] <- pressed`. -/
def State.writeKey (s : State) (k : Nat) (pressed : Bool) : State := s.setKeys (s.keys.setIfInBounds k pressed)

/-- `SETKEY(k, pressed)` (R192, R193): the key state; a press during the wait also stores `k` in the target
register, returns to `Running` and advances `PC`, in one atomic step. `k > 15` is refused (R192). -/
def setKey (k : Nat) (pressed : Bool) (s : State) : Result :=
  if 15 < k then .refused (.keyOutsideContract k)
  else
    match s.status with
    | .awaitingKey t =>
      if pressed then .next ((((s.writeKey k true).writeV t (BitVec.ofNat 8 k)).setStatus .running).advance)
      else .next (s.writeKey k false)
    | .running => .next (s.writeKey k pressed)
    | .faulted _ _ => .next (s.writeKey k pressed)

/-- `ACK_REDRAW` (R196). -/
def ackRedraw (s : State) : State := s.setRedraw false

/-- `ACK_SOUND` (R197). -/
def ackSound (s : State) : State := s.setPending false

/-- The query `PIXEL(x, y)` (R195): outside the grid it is refused. -/
def queryPixel (s : State) (x y : Nat) : Except Refusal Bool :=
  if x < 64 ∧ y < 32 then .ok (pixelAt s.fb (Fin.ofNat 64 x) (Fin.ofNat 32 y))
  else .error (.pixelOutsideGrid x y)

/-- The query `REDRAW?` (R196). -/
def queryRedraw (s : State) : Bool := s.redraw

/-- The query `SOUND_PENDING?` (R197). -/
def querySoundPending (s : State) : Bool := s.soundPending

/-- The query `SOUND_DURATION?` (R197). -/
def querySoundDuration (s : State) : Byte := s.soundDuration

/-- The operations through which alone the core changes state (R12 `00_scope.md`). -/
inductive Operation where
  /-- `INIT` (R210). -/
  | init
  /-- `LOAD(bytes)` (R213). -/
  | load (bytes : List Byte)
  /-- `CYCLE(rand)` (R90): the byte is the operation's input. -/
  | cycle (rand : Byte)
  /-- `TICK` (R191). -/
  | tick
  /-- `SETKEY(k, pressed)` (R192, R193). -/
  | setKey (k : Nat) (pressed : Bool)
  /-- `ACK_REDRAW` (R196). -/
  | ackRedraw
  /-- `ACK_SOUND` (R197). -/
  | ackSound
  deriving DecidableEq, Repr

/-- One host operation (R12, R190). -/
def perform (op : Operation) (s : State) : Result :=
  match op with
  | .init => .next (initialise s)
  | .load bytes => loadProgram bytes s
  | .cycle rand => cycleWith rand s
  | .tick => .next (tickTimers s)
  | .setKey k pressed => setKey k pressed s
  | .ackRedraw => .next (ackRedraw s)
  | .ackSound => .next (ackSound s)

/-- A run: operations one at a time, in the order the host chose (R190). A refused operation has no
move: the run ends there. -/
def performAll : List Operation → State → Result
  | [], s => .next s
  | op :: ops, s =>
    match perform op s with
    | .next t => performAll ops t
    | .fault r => .fault r
    | .refused r => .refused r

/-! ### The end of a run (R217 `70_reset_and_hazards.md`) -/

/-- The parameter `END_OF_RUN` (R8 `00_scope.md`, R217 `70_reset_and_hazards.md`): a predicate on the core's state. The
spec gives none, and the model chooses none: each claim brings its own (the spec's decision D28; log entry 10). -/
abbrev EndOfRun := CoreState → Bool

/-- `status = Faulted(_, _)` (R33 `10_state.md`). -/
def State.isFaulted (s : State) : Bool :=
  match s.status with
  | .faulted _ _ => true
  | .awaitingKey _ => false
  | .running => false

/-- The run is over: `END_OF_RUN` holds, and the state is not `Faulted`, which "is never the successful end of a run"
(R183 `60_exceptions.md`, R217). -/
def runEnded (endOfRun : EndOfRun) (s : State) : Bool := !s.isFaulted && endOfRun s.toCoreState

/-- A run up to its end: the host's operations one at a time (R190), and none after the first state in which
`END_OF_RUN` has ended the run. The core itself would accept more (R217): `performAll` goes on. -/
def runUntil (endOfRun : EndOfRun) : List Operation → State → Result
  | [], s => .next s
  | op :: ops, s =>
    if runEnded endOfRun s then .next s
    else
      match perform op s with
      | .next t => runUntil endOfRun ops t
      | .fault r => .fault r
      | .refused r => .refused r

/-- The first customary `END_OF_RUN` of R217: `PC` is the given address, and it holds a jump to itself (R101
`41_control_flow.md`). An example for claims to use; nothing in the model rests on it. -/
def atSelfJump (a : Addr) : EndOfRun := fun c =>
  c.pc == zextAddr a && wordOfBytes (c.mem.read a.toNat) (c.mem.read (a.toNat + 1)) == encode (.jp a)

end Sys2Proof.Machine
end

