-- ==== Sys2Proof/Safety.lean ====
section
/-! DEFINITION. The terms claims are made in: which part of the state a step may change, the fault table of
R182 (`60_exceptions.md`), what a safe run is (R183), and the invariants of the machine. -/

namespace Sys2Proof.Machine

/-! ### Frames -/

/-- The components of R20 (`10_state.md`), and the model's own `draws`, which is none of them (log entry 2). -/
inductive Part where
  | mem | regs | index | pc | stack | sp | delay | sound | display | redraw | keys | status | pending | duration | draws
  deriving DecidableEq, Repr

/-- The two states agree on a part: memory byte by byte, the display pixel by pixel, the registers one by one. -/
def SameOn : Part → State → State → Prop
  | .mem, s, t => ∀ a, t.mem.read a = s.mem.read a
  | .regs, s, t => ∀ r, t.readV r = s.readV r
  | .index, s, t => t.i = s.i
  | .pc, s, t => t.pc = s.pc
  | .stack, s, t => ∀ k : Fin 16, t.stack[k.val] = s.stack[k.val]
  | .sp, s, t => t.sp = s.sp
  | .delay, s, t => t.dt = s.dt
  | .sound, s, t => t.st = s.st
  | .display, s, t => ∀ x y, pixelAt t.fb x y = pixelAt s.fb x y
  | .redraw, s, t => t.redraw = s.redraw
  | .keys, s, t => ∀ k : Fin 16, t.keys[k.val] = s.keys[k.val]
  | .status, s, t => t.status = s.status
  | .pending, s, t => t.soundPending = s.soundPending
  | .duration, s, t => t.soundDuration = s.soundDuration
  | .draws, s, t => t.draws = s.draws

/-- Every part but the listed ones is as before. -/
def ChangesOnly (ps : List Part) (s t : State) : Prop := ∀ p, p ∉ ps → SameOn p s t

/-- Every general register but the listed ones is as before. -/
def RegsSameBut (rs : List RegIdx) (s t : State) : Prop := ∀ r, r ∉ rs → t.readV r = s.readV r

/-- Every byte of memory outside the `n` bytes at `a` reads as before. -/
def MemSameOutside (a n : Nat) (s t : State) : Prop := ∀ b, b < a ∨ a + n ≤ b → t.mem.read b = s.mem.read b

/-- The parts an instruction may change, faults and the key wait among them (the rules of files 40 to 46). -/
def mayWrite : Instr → List Part
  | .cls => [.display, .redraw, .pc]
  | .ret => [.sp, .pc, .status]
  | .call _ => [.stack, .sp, .pc, .status]
  | .jp _ | .jpV0 _ | .seImm _ _ | .sneImm _ _ | .seReg _ _ | .sneReg _ _ | .nop _ => [.pc]
  | .ldImm _ _ | .addImm _ _ | .ldReg _ _ | .orReg _ _ | .andReg _ _ | .xorReg _ _ | .addReg _ _ | .sub _ _ | .shr _ _
  | .subn _ _ | .shl _ _ | .ldVxDt _ => [.regs, .pc]
  | .rnd _ _ => [.regs, .pc, .draws]
  | .ldI _ | .addI _ | .ldF _ => [.index, .pc]
  | .drw _ _ _ => [.regs, .display, .redraw, .pc, .status]
  | .skp _ | .sknp _ => [.pc, .status]
  | .ldVxK _ => [.regs, .pc, .status]
  | .ldDtVx _ => [.delay, .pc]
  | .ldStVx _ => [.sound, .duration, .pending, .pc]
  | .ldB _ | .dump _ => [.mem, .pc, .status]
  | .load _ => [.regs, .pc, .status]

/-- The six instructions that write `VF` as a side effect (the table of R25 `10_state.md`). -/
def writesFlag : Instr → Bool
  | .addReg _ _ | .sub _ _ | .shr _ _ | .subn _ _ | .shl _ _ | .drw _ _ _ => true
  | .cls | .ret | .jp _ | .call _ | .seImm _ _ | .sneImm _ _ | .seReg _ _ | .ldImm _ _ | .addImm _ _ | .ldReg _ _
  | .orReg _ _ | .andReg _ _ | .xorReg _ _ | .sneReg _ _ | .ldI _ | .jpV0 _ | .rnd _ _ | .skp _ | .sknp _ | .ldVxDt _
  | .ldVxK _ | .ldDtVx _ | .ldStVx _ | .addI _ | .ldF _ | .ldB _ | .dump _ | .load _ | .nop _ => false

/-- Register `r` is a destination the instruction names: X, or each of 0 to X for the register load. -/
def namesDestination : Instr → RegIdx → Bool
  | .ldImm x _, r | .addImm x _, r | .ldReg x _, r | .orReg x _, r | .andReg x _, r | .xorReg x _, r | .addReg x _, r
  | .sub x _, r | .shr x _, r | .subn x _, r | .shl x _, r | .rnd x _, r | .ldVxDt x, r | .ldVxK x, r => r == x
  | .load x, r => decide (r.toNat ≤ x.toNat)
  | .cls, _ | .ret, _ | .jp _, _ | .call _, _ | .seImm _ _, _ | .sneImm _ _, _ | .seReg _ _, _ | .sneReg _ _, _
  | .ldI _, _ | .jpV0 _, _ | .drw _ _ _, _ | .skp _, _ | .sknp _, _ | .ldDtVx _, _ | .ldStVx _, _ | .addI _, _
  | .ldF _, _ | .ldB _, _ | .dump _, _ | .nop _, _ => false

/-- The `PC` an instruction that completes leaves (R26 `10_state.md`): `PC + 2`; for a skip also `PC + 4`; for a
jump or call its target; for a return the popped entry + 2. -/
def PcTarget : Instr → State → Word → Prop
  | .jp nnn, _, p | .call nnn, _, p => p.toNat = nnn.toNat
  | .jpV0 nnn, s, p => p.toNat = (s.readV 0#4).toNat + nnn.toNat
  | .ret, s, p => p = s.pop.atStackPointer + 2#16
  | .seImm _ _, s, p | .sneImm _ _, s, p | .seReg _ _, s, p | .sneReg _ _, s, p | .skp _, s, p | .sknp _, s, p =>
    p = s.pc + 2#16 ∨ p = s.pc + 4#16
  | .cls, s, p | .ldImm _ _, s, p | .addImm _ _, s, p | .ldReg _ _, s, p | .orReg _ _, s, p | .andReg _ _, s, p
  | .xorReg _ _, s, p | .addReg _ _, s, p | .sub _ _, s, p | .shr _ _, s, p | .subn _ _, s, p | .shl _ _, s, p
  | .ldI _, s, p | .rnd _ _, s, p | .drw _ _ _, s, p | .ldVxDt _, s, p | .ldVxK _, s, p | .ldDtVx _, s, p
  | .ldStVx _, s, p | .addI _, s, p | .ldF _, s, p | .ldB _, s, p | .dump _, s, p | .load _, s, p | .nop _, s, p =>
    p = s.pc + 2#16

/-! ### The fault table -/

/-- `MemOutOfRange` for the non-empty range `I .. I + last` (R182 row 2): its highest address is above 0xFFF. -/
def rangeFault (s : State) (last : Nat) : Option (Cause × Word) :=
  if 0xFFF < s.i.toNat + last then some (.memOutOfRange, BitVec.ofNat 16 (max s.i.toNat 0x1000)) else none

/-- `KeyIndexOutOfRange` for the key index in `V[X]` (R182 row 5). -/
def keyFault (s : State) (x : RegIdx) : Option (Cause × Word) :=
  if 15 < (s.readV x).toNat then some (.keyIndexOutOfRange, BitVec.ofNat 16 (s.readV x).toNat) else none

/-- The fault an instruction raises, by the table of R182 (`60_exceptions.md`): its cause and `info`. -/
def faultOf : Instr → State → Option (Cause × Word)
  | .drw _ _ n, s => if n.toNat = 0 then none else rangeFault s (n.toNat - 1)
  | .ldB _, s => rangeFault s 2
  | .dump x, s | .load x, s => rangeFault s x.toNat
  | .call _, s => if s.sp.val = 16 then some (.stackOverflow, s.pc) else none
  | .ret, s => if s.sp.val = 0 then some (.stackUnderflow, s.pc) else none
  | .skp x, s | .sknp x, s => keyFault s x
  | .cls, _ | .jp _, _ | .seImm _ _, _ | .sneImm _ _, _ | .seReg _ _, _ | .ldImm _ _, _ | .addImm _ _, _ | .ldReg _ _, _
  | .orReg _ _, _ | .andReg _ _, _ | .xorReg _ _, _ | .addReg _ _, _ | .sub _ _, _ | .shr _ _, _ | .subn _ _, _
  | .shl _ _, _ | .sneReg _ _, _ | .ldI _, _ | .jpV0 _, _ | .rnd _ _, _ | .ldVxDt _, _ | .ldVxK _, _ | .ldDtVx _, _
  | .ldStVx _, _ | .addI _, _ | .ldF _, _ | .nop _, _ => none

/-- The fault of a whole `CYCLE` in `Running`: the fetch check comes first (R182 row 1, R184). -/
def cycleFault (s : State) : Option (Cause × Word) :=
  if 0xFFE < s.pc.toNat then some (.fetchOutOfRange, s.pc) else faultOf (decodeWord (fetchWord s)) s

/-! ### Safe runs -/

/-- "A faulted state is never the successful end of a run" (R183 `60_exceptions.md`). -/
def State.notFaulted (s : State) : Prop := ∀ c info, s.status ≠ .faulted c info

/-- Under the claim's own `END_OF_RUN` (R8 `00_scope.md`, R217 `70_reset_and_hazards.md`), the operations take `s` to the
end of a run, in state `t`. -/
def RunsToEnd (endOfRun : EndOfRun) (ops : List Operation) (s t : State) : Prop :=
  runUntil endOfRun ops s = .next t ∧ runEnded endOfRun t = true

/-- A state that some sequence of host operations reaches from the state after `INIT` (R190, R211, R216). -/
def Reachable (s : State) : Prop := ∃ ops, performAll ops State.reset = .next s

/-! ### What INIT leaves -/

/-- The reset column of R20 (`10_state.md`), R210 (`70_reset_and_hazards.md`), component by component. -/
def IsResetState (s : State) : Prop :=
  (∀ a, a < 80 → s.mem.read a = fontBytes.getD a 0#8) ∧
  (∀ a, 80 ≤ a → s.mem.read a = 0#8) ∧
  (∀ r, s.readV r = 0#8) ∧ s.i = 0#16 ∧ s.pc = 0x200#16 ∧
  (∀ k : Fin 16, s.stack[k.val] = 0#16) ∧ s.sp.val = 0 ∧ s.dt = 0#8 ∧ s.st = 0#8 ∧
  (∀ x y, pixelAt s.fb x y = false) ∧ s.redraw = false ∧
  (∀ k : Fin 16, s.keys[k.val] = false) ∧ s.status = .running ∧
  s.soundPending = false ∧ s.soundDuration = 0#8

/-! ### Sprites -/

/-- Pixel `(px, py)` is under a sprite bit of 1 of `DRW Vx,Vy,N` in state `s`: some row `r < N` and column
`c < 8` wrap onto it, and bit `7 - c` of the byte at `I + r` is 1 (R152 `44_display.md`). -/
def UnderSprite (s : State) (x y : RegIdx) (n : RowCount) (px : Fin 64) (py : Fin 32) : Prop :=
  ∃ r c, r < n.toNat ∧ c < 8 ∧ px.val = ((s.readV x).toNat + c) % 64 ∧ py.val = ((s.readV y).toNat + r) % 32 ∧
    (s.mem.read (s.i.toNat + r)).getLsbD (7 - c) = true

/-! ### Invariants -/

/-- Memory is in its canonical form (the model's own, log entry 7): rising addresses below 4096, no entry equal to the reset contents. -/
def State.CanonicalMemory (s : State) : Prop := s.mem.wf = true

/-- R194 (`60_exceptions.md`): "whenever `status = AwaitingKey(t)`, `key[k] = 0` for all k". -/
def State.KeysUpInWait (s : State) : Prop := ∀ t, s.status = .awaitingKey t → ∀ k, k < 16 → s.keyDown k = false

/-- R27 (`10_state.md`): no reachable `PC` is above 0x10FE, a wait is entered at a fetchable `PC`, and every
stack entry is the address of a call that was fetched. -/
def State.PcInReach (s : State) : Prop :=
  s.pc.toNat ≤ 0x10FE ∧ (∀ t, s.status = .awaitingKey t → s.pc.toNat ≤ 0xFFE) ∧
  ∀ k : Fin 16, s.stack[k.val].toNat ≤ 0xFFE

/-- A recorded fault is the true one: the state still shows the condition of R182 (`60_exceptions.md`) under
which its cause is raised, and the `info` the table gives. -/
def State.FaultIsTrue (s : State) : Prop :=
  ∀ c info, s.status = .faulted c info →
    match c with
    | .fetchOutOfRange => info = s.pc ∧ 0xFFE < s.pc.toNat
    | .memOutOfRange => info.toNat = max s.i.toNat 0x1000 ∧ 0xFFF < s.i.toNat + 15
    | .stackOverflow => info = s.pc ∧ s.sp.val = 16
    | .stackUnderflow => info = s.pc ∧ s.sp.val = 0
    | .keyIndexOutOfRange => 15 < info.toNat ∧ info.toNat < 256

/-- The invariant of the machine: it holds at reset and every operation keeps it. -/
def State.Inv (s : State) : Prop :=
  s.CanonicalMemory ∧ s.KeysUpInWait ∧ s.PcInReach ∧ s.FaultIsTrue

end Sys2Proof.Machine
end

