-- ==== Sys2Proof/Certificates/Slice0/Obligations.lean ====
section
/-! DEFINITION. What the model claims, rule by rule of spec/: encoding, the CYCLE operation, every
instruction's result and frame, the faults, the host operations, reset and the invariants. -/

open Sys2Proof Sys2Proof.Machine

/-! ### Encoding (30_encoding.md) -/

/-- R92, R81: decoding the word of a well-formed instruction gives it back, every operand at every value. The
opcode numbers and the strict decode are the spec's decisions D13 and D9 (log entry 11). -/
def Obligations.DecodeInvertsEncode : Prop :=
  ∀ i : Instr, i.wellFormed = true → decodeWord (encode i) = i

/-- R81, R75: encoding what a word decodes to gives the word back, for all 65536 words; so no bit of an
encoding is dropped, the ignored Y of SHR and SHL included (the model's choice, log entry 15). -/
def Obligations.EncodeInvertsDecode : Prop :=
  ∀ w : Word, encode (decodeWord w) = w

/-- R92: the decoder answers the unique row of R75 whose mask and match fit the word, or the no-op if none fits. -/
def Obligations.DecodeAnswersTheUniqueRow : Prop :=
  ∀ w : Word,
    (∃ r ∈ opcodeRows, r.selects w = true ∧ (decodeWord w).rowNumber = r.number ∧
      ∀ q ∈ opcodeRows, q.selects w = true → q = r) ∨
    ((∀ r ∈ opcodeRows, r.selects w = false) ∧ decodeWord w = .nop w)

/-- R76's table (strict decode is the spec's decision D9): the unmatched words, class by class. -/
def Obligations.UnmatchedWordsByClass : Prop :=
  ∀ w : Word, decodeWord w = .nop w ↔
    (fieldClass w = 0x0#4 ∧ w ≠ 0x00E0#16 ∧ w ≠ 0x00EE#16) ∨
    (fieldClass w = 0x5#4 ∧ fieldN w ≠ 0#4) ∨
    (fieldClass w = 0x8#4 ∧ (fieldN w).toNat ∈ [0x8, 0x9, 0xA, 0xB, 0xC, 0xD, 0xF]) ∨
    (fieldClass w = 0x9#4 ∧ fieldN w ≠ 0#4) ∨
    (fieldClass w = 0xE#4 ∧ fieldNN w ≠ 0x9E#8 ∧ fieldNN w ≠ 0xA1#8) ∨
    (fieldClass w = 0xF#4 ∧ (fieldNN w).toNat ∉ [0x07, 0x0A, 0x15, 0x18, 0x1E, 0x29, 0x33, 0x55, 0x65])

/-- Every word decodes to a well-formed instruction (R76: no word is illegal). -/
def Obligations.EveryWordDecodesWellFormed : Prop :=
  ∀ w : Word, (decodeWord w).wellFormed = true

/-- Words written out from the encodings of R75, one of every family, read high byte first (R51). -/
def Obligations.SampleWordsDecode : Prop :=
  decode [0x12, 0x34] = .ok (.jp 0x234, []) ∧ decode [0x34, 0x12] = .ok (.seImm 4 0x12, []) ∧
  decode [0x00, 0xE0] = .ok (.cls, []) ∧ decode [0x81, 0x2E] = .ok (.shl 1 2, []) ∧
  decode [0xA2, 0xF0] = .ok (.ldI 0x2F0, []) ∧ decode [0xD1, 0x25] = .ok (.drw 1 2 5, []) ∧
  decode [0xE1, 0xA1] = .ok (.sknp 1, []) ∧ decode [0xF4, 0x15] = .ok (.ldDtVx 4, []) ∧
  decode [0x01, 0x23] = .ok (.nop 0x0123, [])

/-! ### The CYCLE operation (40_fetch_decode.md) -/

/-- R90, R91: in `Running`, when the two bytes at `PC` decode to a well-formed instruction, the step is exec
of it on the same state; nothing stands around exec on this hardware. -/
def Obligations.StepRunsDecodedInstruction : Prop :=
  ∀ (s : State) (i : Instr), s.status = .running → s.pc.toNat ≤ 0xFFE → i.wellFormed = true →
    decode [s.mem.read s.pc.toNat, s.mem.read (s.pc.toNat + 1)] = .ok (i, []) → step s = exec i s

/-- R55, R91 (the spec's decision D3): a fetch with `PC > 0xFFE` raises FetchOutOfRange(PC) and changes nothing else. -/
def Obligations.FetchAboveMemoryFaults : Prop :=
  ∀ s : State, s.status = .running → 0xFFE < s.pc.toNat →
    ∃ t, step s = .next t ∧ t.status = .faulted .fetchOutOfRange s.pc ∧ ChangesOnly [.status] s t

/-- R94, R96 (the spec's decisions D22, D1): CYCLE in `AwaitingKey` or `Faulted` changes nothing. -/
def Obligations.CycleIsIdleUnlessRunning : Prop :=
  ∀ s : State, s.status ≠ .running → step s = .next s

/-- A table word placed for the next fetch is the instruction the next step runs, whatever the state held (R91,
R51; `withFetchWord` is the model's own, log entry 5). -/
def Obligations.PlacedWordRunsNext : Prop :=
  ∀ (s : State) (nbits w : Nat) (i : Instr), s.mem.wf = true → decodeTableWord nbits w = some i →
    step (s.withFetchWord nbits w) = exec i (s.withFetchWord nbits w)

/-- R93, R181: a step, CYCLE with any byte, and every instruction answer a next state: faults are states too (the
spec's decision D1), nothing is refused. -/
def Obligations.EveryStepAnswersNext : Prop :=
  (∀ s : State, ∃ t, step s = .next t) ∧ (∀ (rand : Byte) (s : State), ∃ t, perform (.cycle rand) s = .next t) ∧
  ∀ (i : Instr) (s : State), ∃ t, exec i s = .next t

/-- R181 (the spec's decision D1): when a CYCLE raises a fault, `status` is all that changes. -/
def Obligations.FaultEntryIsPrecise : Prop :=
  ∀ (s t : State) (c : Cause) (info : Word), s.status = .running → step s = .next t →
    t.status = .faulted c info → t = s.setStatus (.faulted c info)

/-- R182 (the spec's decisions D1 to D6): a CYCLE faults exactly under the conditions of the fault table, with
the table's cause and `info`. -/
def Obligations.FaultsAreExactlyTheTable : Prop :=
  ∀ (s t : State) (c : Cause) (info : Word), s.status = .running → step s = .next t →
    (t.status = .faulted c info ↔ cycleFault s = some (c, info))

/-- R26, R93: an instruction that completes leaves the `PC` its rule gives, and `PC` stays only on a fault, on
entering the key wait, or in the sound stall. -/
def Obligations.PcEndsByRuleOrStays : Prop :=
  ∀ (i : Instr) (s t : State), s.status = .running → exec i s = .next t →
    (t.status = .running ∧ PcTarget i s t.pc) ∨
    (t.pc = s.pc ∧ (t.status ≠ .running ∨ (∃ x, i = .ldStVx x) ∧ s.soundPending = true))

/-- R24, R25: a general register changes only where the instruction names it as a destination, or where it
is `VF` and the instruction is one of the six of R25's table. -/
def Obligations.OnlyDestinationsAndFlagChange : Prop :=
  ∀ (i : Instr) (s t : State) (r : RegIdx), exec i s = .next t → t.readV r ≠ s.readV r →
    namesDestination i r = true ∨ (r = flagReg ∧ writesFlag i = true)

/-- The frame of every instruction (R28, R29, R30, R31, R37, R54): it changes only the parts of the state its
rule writes; memory only by LD B and LD [I],Vx, the display only by CLS and DRW, keys by none. -/
def Obligations.InstructionsChangeOnlyTheirParts : Prop :=
  ∀ (i : Instr) (s t : State), exec i s = .next t → ChangesOnly (mayWrite i) s t

/-- R38: `redraw`, `sound_duration` and `ST` influence no instruction: two states that differ in them only
stay so through a step. -/
def Obligations.HiddenFlagsInfluenceNothing : Prop :=
  ∀ (s t : State) (rd : Bool) (d st : Byte), step s = .next t →
    ∃ t', step (((s.setRedraw rd).setDuration d).setSound st) = .next t' ∧
      t' = ((t.setRedraw t'.redraw).setDuration t'.soundDuration).setSound t'.st

/-! ### Register and ALU instructions (42_alu.md) -/

/-- R122. -/
def Obligations.LoadConstantWritesRegister : Prop :=
  ∀ (x : RegIdx) (nn : Byte) (s : State), ∃ t, exec (.ldImm x nn) s = .next t ∧
    t.readV x = nn ∧ RegsSameBut [x] s t ∧ t.pc = s.pc + 2#16 ∧ ChangesOnly [.regs, .pc] s t

/-- R123: the sum modulo 256; no flag change. -/
def Obligations.AddConstantWrapsWithoutFlag : Prop :=
  ∀ (x : RegIdx) (nn : Byte) (s : State), ∃ t, exec (.addImm x nn) s = .next t ∧
    (t.readV x).toNat = ((s.readV x).toNat + nn.toNat) % 256 ∧ RegsSameBut [x] s t ∧
    t.pc = s.pc + 2#16 ∧ ChangesOnly [.regs, .pc] s t

/-- R124. -/
def Obligations.AssignCopiesRegister : Prop :=
  ∀ (x y : RegIdx) (s : State), ∃ t, exec (.ldReg x y) s = .next t ∧
    t.readV x = s.readV y ∧ RegsSameBut [x] s t ∧ t.pc = s.pc + 2#16 ∧ ChangesOnly [.regs, .pc] s t

/-- R125: OR, AND, XOR bit by bit; `VF` is not modified (unless it is X). -/
def Obligations.LogicCombinesBitwise : Prop :=
  ∀ (x y : RegIdx) (s : State),
    (∃ t, exec (.orReg x y) s = .next t ∧
      (∀ k, k < 8 → (t.readV x).getLsbD k = ((s.readV x).getLsbD k || (s.readV y).getLsbD k)) ∧
      RegsSameBut [x] s t ∧ t.pc = s.pc + 2#16 ∧ ChangesOnly [.regs, .pc] s t) ∧
    (∃ t, exec (.andReg x y) s = .next t ∧
      (∀ k, k < 8 → (t.readV x).getLsbD k = ((s.readV x).getLsbD k && (s.readV y).getLsbD k)) ∧
      RegsSameBut [x] s t ∧ t.pc = s.pc + 2#16 ∧ ChangesOnly [.regs, .pc] s t) ∧
    (∃ t, exec (.xorReg x y) s = .next t ∧
      (∀ k, k < 8 → (t.readV x).getLsbD k = ((s.readV x).getLsbD k ^^ (s.readV y).getLsbD k)) ∧
      RegsSameBut [x] s t ∧ t.pc = s.pc + 2#16 ∧ ChangesOnly [.regs, .pc] s t)

/-- R126, R121: `VF` is the carry-out and X the sum modulo 256; with X = 15 the sum remains (the spec's
decision D10, log entry 12). -/
def Obligations.AddRegistersSetsCarry : Prop :=
  ∀ (x y : RegIdx) (s : State), ∃ t, exec (.addReg x y) s = .next t ∧
    (t.readV x).toNat = ((s.readV x).toNat + (s.readV y).toNat) % 256 ∧
    (x ≠ 0xF#4 → t.readV 0xF#4 = if 255 < (s.readV x).toNat + (s.readV y).toNat then 1#8 else 0#8) ∧
    RegsSameBut [x, 0xF#4] s t ∧ t.pc = s.pc + 2#16 ∧ ChangesOnly [.regs, .pc] s t

/-- R127, R121: `VF` is the inverted borrow and X the difference modulo 256; with X = 15 the difference
remains (the spec's decision D10, log entry 12). -/
def Obligations.SubtractSetsInvertedBorrow : Prop :=
  ∀ (x y : RegIdx) (s : State), ∃ t, exec (.sub x y) s = .next t ∧
    (t.readV x).toNat = (if (s.readV y).toNat ≤ (s.readV x).toNat then (s.readV x).toNat - (s.readV y).toNat
      else (s.readV x).toNat + 256 - (s.readV y).toNat) ∧
    (x ≠ 0xF#4 → t.readV 0xF#4 = if (s.readV x).toNat < (s.readV y).toNat then 0#8 else 1#8) ∧
    RegsSameBut [x, 0xF#4] s t ∧ t.pc = s.pc + 2#16 ∧ ChangesOnly [.regs, .pc] s t

/-- R129, R121: as SUB with the operands' roles exchanged (X = 15: the spec's decision D10, log entry 12). -/
def Obligations.ReverseSubtractSetsInvertedBorrow : Prop :=
  ∀ (x y : RegIdx) (s : State), ∃ t, exec (.subn x y) s = .next t ∧
    (t.readV x).toNat = (if (s.readV x).toNat ≤ (s.readV y).toNat then (s.readV y).toNat - (s.readV x).toNat
      else (s.readV y).toNat + 256 - (s.readV x).toNat) ∧
    (x ≠ 0xF#4 → t.readV 0xF#4 = if (s.readV y).toNat < (s.readV x).toNat then 0#8 else 1#8) ∧
    RegsSameBut [x, 0xF#4] s t ∧ t.pc = s.pc + 2#16 ∧ ChangesOnly [.regs, .pc] s t

/-- R128, R77: X is halved, `VF` is the bit shifted out, whatever Y is (X = 15: the spec's decision D10, log entry 12). -/
def Obligations.ShiftRightCapturesLowBit : Prop :=
  ∀ (x y : RegIdx) (s : State), ∃ t, exec (.shr x y) s = .next t ∧
    (t.readV x).toNat = (s.readV x).toNat / 2 ∧
    (x ≠ 0xF#4 → (t.readV 0xF#4).toNat = (s.readV x).toNat % 2) ∧
    RegsSameBut [x, 0xF#4] s t ∧ t.pc = s.pc + 2#16 ∧ ChangesOnly [.regs, .pc] s t

/-- R130, R77: X is doubled modulo 256, `VF` is the bit shifted out, whatever Y is (X = 15: the spec's decision D10,
log entry 12). -/
def Obligations.ShiftLeftCapturesHighBit : Prop :=
  ∀ (x y : RegIdx) (s : State), ∃ t, exec (.shl x y) s = .next t ∧
    (t.readV x).toNat = 2 * (s.readV x).toNat % 256 ∧
    (x ≠ 0xF#4 → (t.readV 0xF#4).toNat = (s.readV x).toNat / 128) ∧
    RegsSameBut [x, 0xF#4] s t ∧ t.pc = s.pc + 2#16 ∧ ChangesOnly [.regs, .pc] s t

/-- R132 (the spec's decision D18): X takes the byte `rand` under the mask, whatever byte this CYCLE is given; exec
gives it the next free byte, whose numbering is the model's choice (log entries 1 and 2). -/
def Obligations.RandomByteIsMasked : Prop :=
  ∀ (x : RegIdx) (nn : Byte) (s : State),
    (∀ rand : Byte, ∃ t, execWith rand (.rnd x nn) s = .next t ∧ t.readV x = rand &&& nn ∧
      RegsSameBut [x] s t ∧ t.pc = s.pc + 2#16 ∧ ChangesOnly [.regs, .pc] s t) ∧
    (∃ t, exec (.rnd x nn) s = .next t ∧ t.readV x = Config.randomByte s.draws &&& nn ∧
      RegsSameBut [x] s t ∧ t.pc = s.pc + 2#16 ∧ t.draws = s.draws + 1 ∧ ChangesOnly [.regs, .pc, .draws] s t)

/-! ### Control transfer (41_control_flow.md) and the no-op -/

/-- R101, R108: a jump replaces `PC` by its 12-bit target, a jump-offset by V[0] + NNN without reduction; nothing
else changes. -/
def Obligations.JumpsReplacePc : Prop :=
  ∀ (nnn : Addr) (s : State),
    (∃ t, exec (.jp nnn) s = .next t ∧ t.pc.toNat = nnn.toNat ∧ ChangesOnly [.pc] s t) ∧
    (∃ t, exec (.jpV0 nnn) s = .next t ∧ t.pc.toNat = (s.readV 0#4).toNat + nnn.toNat ∧ ChangesOnly [.pc] s t)

/-- R102 (the fault is the spec's decision D4): CALL pushes its own address and jumps; with `SP = 16` it raises
StackOverflow(PC) and changes nothing else. -/
def Obligations.CallPushesOwnAddress : Prop :=
  ∀ (nnn : Addr) (s : State),
    (∀ h : s.sp.val < 16, ∃ t, exec (.call nnn) s = .next t ∧
      t.stack[s.sp.val] = s.pc ∧ (∀ k : Fin 16, k.val ≠ s.sp.val → t.stack[k.val] = s.stack[k.val]) ∧
      t.sp.val = s.sp.val + 1 ∧ t.pc.toNat = nnn.toNat ∧ ChangesOnly [.stack, .sp, .pc] s t) ∧
    (s.sp.val = 16 → ∃ t, exec (.call nnn) s = .next t ∧
      t.status = .faulted .stackOverflow s.pc ∧ ChangesOnly [.status] s t)

/-- R100 (the fault is the spec's decision D5): RET pops and goes to the entry + 2, the entry keeping its value;
with `SP = 0` it raises StackUnderflow(PC) and changes nothing else. -/
def Obligations.ReturnGoesPastTheCall : Prop :=
  ∀ s : State,
    (∀ h : 0 < s.sp.val, ∃ t, exec .ret s = .next t ∧
      t.sp.val = s.sp.val - 1 ∧ t.pc = s.stack[s.sp.val - 1] + 2#16 ∧ ChangesOnly [.sp, .pc] s t) ∧
    (s.sp.val = 0 → ∃ t, exec .ret s = .next t ∧
      t.status = .faulted .stackUnderflow s.pc ∧ ChangesOnly [.status] s t)

/-- R102, R100 (source example S8): a call followed by a return comes back to the call's address + 2 with `SP` as
before; only the freed stack entry has changed. -/
def Obligations.CallThenReturnComesBack : Prop :=
  ∀ (nnn : Addr) (s t u : State), s.sp.val < 16 → exec (.call nnn) s = .next t → exec .ret t = .next u →
    u.pc = s.pc + 2#16 ∧ u.sp = s.sp ∧ (∀ k : Fin 16, k.val ≠ s.sp.val → u.stack[k.val] = s.stack[k.val]) ∧
    ChangesOnly [.pc, .stack] s u

/-- R103, R104: the constant skips take `PC + 4` when X equals (is unlike) NN, else `PC + 2`; nothing else changes. -/
def Obligations.ConstantSkipsCompare : Prop :=
  ∀ (x : RegIdx) (nn : Byte) (s : State),
    (∃ t, exec (.seImm x nn) s = .next t ∧
      t.pc = (if s.readV x = nn then s.pc + 4#16 else s.pc + 2#16) ∧ ChangesOnly [.pc] s t) ∧
    (∃ t, exec (.sneImm x nn) s = .next t ∧
      t.pc = (if s.readV x ≠ nn then s.pc + 4#16 else s.pc + 2#16) ∧ ChangesOnly [.pc] s t)

/-- R105, R106: the register skips take `PC + 4` when X equals (is unlike) Y, else `PC + 2`; nothing else changes. -/
def Obligations.RegisterSkipsCompare : Prop :=
  ∀ (x y : RegIdx) (s : State),
    (∃ t, exec (.seReg x y) s = .next t ∧
      t.pc = (if s.readV x = s.readV y then s.pc + 4#16 else s.pc + 2#16) ∧ ChangesOnly [.pc] s t) ∧
    (∃ t, exec (.sneReg x y) s = .next t ∧
      t.pc = (if s.readV x ≠ s.readV y then s.pc + 4#16 else s.pc + 2#16) ∧ ChangesOnly [.pc] s t)

/-- R95: an unmatched word only advances `PC` by 2. -/
def Obligations.UnmatchedWordOnlyAdvances : Prop :=
  ∀ (w : Word) (s : State), ∃ t, exec (.nop w) s = .next t ∧ t.pc = s.pc + 2#16 ∧ ChangesOnly [.pc] s t

/-! ### Index register and memory (43_index_memory.md) -/

/-- R141: `I` takes the 12-bit literal, zero-extended. -/
def Obligations.SetIndexLoadsLiteral : Prop :=
  ∀ (nnn : Addr) (s : State), ∃ t, exec (.ldI nnn) s = .next t ∧
    t.i.toNat = nnn.toNat ∧ t.pc = s.pc + 2#16 ∧ ChangesOnly [.index, .pc] s t

/-- R143: `I` takes 5 times the whole byte V[X], not masked; no memory is accessed. -/
def Obligations.FontAddressIsFiveTimes : Prop :=
  ∀ (x : RegIdx) (s : State), ∃ t, exec (.ldF x) s = .next t ∧
    t.i.toNat = 5 * (s.readV x).toNat ∧ t.pc = s.pc + 2#16 ∧ ChangesOnly [.index, .pc] s t

/-- R142 (the spec's decision D20): `I` plus V[X] modulo 65536; `VF` is not written. -/
def Obligations.AddIndexWrapsWithoutFlag : Prop :=
  ∀ (x : RegIdx) (s : State), ∃ t, exec (.addI x) s = .next t ∧
    t.i.toNat = (s.i.toNat + (s.readV x).toNat) % 65536 ∧ t.pc = s.pc + 2#16 ∧ ChangesOnly [.index, .pc] s t

/-- R144 (the fault is the spec's decision D2): the three decimal digits of V[X] at I, I + 1, I + 2, and no other
byte; above 0xFFF MemOutOfRange(max(I, 0x1000)) and nothing else changes. -/
def Obligations.BcdStoresDigits : Prop :=
  ∀ (x : RegIdx) (s : State), s.mem.wf = true →
    (s.i.toNat + 2 ≤ 0xFFF → ∃ t, exec (.ldB x) s = .next t ∧
      (t.mem.read s.i.toNat).toNat = (s.readV x).toNat / 100 ∧
      (t.mem.read (s.i.toNat + 1)).toNat = (s.readV x).toNat / 10 % 10 ∧
      (t.mem.read (s.i.toNat + 2)).toNat = (s.readV x).toNat % 10 ∧
      MemSameOutside s.i.toNat 3 s t ∧ t.pc = s.pc + 2#16 ∧ ChangesOnly [.mem, .pc] s t) ∧
    (0xFFF < s.i.toNat + 2 → ∃ t info, exec (.ldB x) s = .next t ∧
      t.status = .faulted .memOutOfRange info ∧ info.toNat = max s.i.toNat 0x1000 ∧ ChangesOnly [.status] s t)

/-- R145 (the fault is the spec's decision D2): V[0] to V[X] at I to I + X and no other byte, `I` unchanged; above
0xFFF MemOutOfRange(max(I, 0x1000)) and nothing else changes. -/
def Obligations.RegisterDumpStoresRange : Prop :=
  ∀ (x : RegIdx) (s : State), s.mem.wf = true →
    (s.i.toNat + x.toNat ≤ 0xFFF → ∃ t, exec (.dump x) s = .next t ∧
      (∀ r : RegIdx, r.toNat ≤ x.toNat → t.mem.read (s.i.toNat + r.toNat) = s.readV r) ∧
      MemSameOutside s.i.toNat (x.toNat + 1) s t ∧ t.pc = s.pc + 2#16 ∧ ChangesOnly [.mem, .pc] s t) ∧
    (0xFFF < s.i.toNat + x.toNat → ∃ t info, exec (.dump x) s = .next t ∧
      t.status = .faulted .memOutOfRange info ∧ info.toNat = max s.i.toNat 0x1000 ∧ ChangesOnly [.status] s t)

/-- R146 (the fault is the spec's decision D2): V[0] to V[X] from I to I + X, the higher registers and `I`
unchanged; above 0xFFF MemOutOfRange(max(I, 0x1000)) and nothing else changes. -/
def Obligations.RegisterLoadFillsRange : Prop :=
  ∀ (x : RegIdx) (s : State),
    (s.i.toNat + x.toNat ≤ 0xFFF → ∃ t, exec (.load x) s = .next t ∧
      (∀ r : RegIdx, t.readV r = if r.toNat ≤ x.toNat then s.mem.read (s.i.toNat + r.toNat) else s.readV r) ∧
      t.pc = s.pc + 2#16 ∧ ChangesOnly [.regs, .pc] s t) ∧
    (0xFFF < s.i.toNat + x.toNat → ∃ t info, exec (.load x) s = .next t ∧
      t.status = .faulted .memOutOfRange info ∧ info.toNat = max s.i.toNat 0x1000 ∧ ChangesOnly [.status] s t)

/-! ### Display (44_display.md) -/

/-- R151 (the unconditional raise is the spec's decision D16): every pixel 0, `redraw` raised, `VF` unchanged. -/
def Obligations.ClearScreenBlanksAndRaisesRedraw : Prop :=
  ∀ s : State, ∃ t, exec .cls s = .next t ∧ (∀ x y, pixelAt t.fb x y = false) ∧ t.redraw = true ∧
    t.pc = s.pc + 2#16 ∧ ChangesOnly [.display, .redraw, .pc] s t

/-- R152 (bit order, unconditional raise and the fault are the spec's decisions D11, D16, D2): a draw toggles
exactly the pixels under a sprite bit of 1, wrapped in both axes, `VF` is the collision, `redraw` is raised; a
non-empty range above 0xFFF raises MemOutOfRange(max(I, 0x1000)) and changes nothing else. -/
def Obligations.DrawTogglesSpritePixels : Prop :=
  ∀ (x y : RegIdx) (n : RowCount) (s : State),
    (n.toNat = 0 ∨ s.i.toNat + n.toNat - 1 ≤ 0xFFF → ∃ t, exec (.drw x y n) s = .next t ∧
      (∀ px py, (UnderSprite s x y n px py → pixelAt t.fb px py = !pixelAt s.fb px py) ∧
        (¬ UnderSprite s x y n px py → pixelAt t.fb px py = pixelAt s.fb px py)) ∧
      ((∃ px py, UnderSprite s x y n px py ∧ pixelAt s.fb px py = true) → t.readV 0xF#4 = 1#8) ∧
      ((¬ ∃ px py, UnderSprite s x y n px py ∧ pixelAt s.fb px py = true) → t.readV 0xF#4 = 0#8) ∧
      RegsSameBut [0xF#4] s t ∧ t.redraw = true ∧ t.pc = s.pc + 2#16 ∧
      ChangesOnly [.regs, .display, .redraw, .pc] s t) ∧
    (n.toNat ≠ 0 ∧ 0xFFF < s.i.toNat + n.toNat - 1 → ∃ t info, exec (.drw x y n) s = .next t ∧
      t.status = .faulted .memOutOfRange info ∧ info.toNat = max s.i.toNat 0x1000 ∧ ChangesOnly [.status] s t)

/-- R152, corner case: drawing the same sprite twice at the same position restores every pixel, and the second
draw collides exactly when some bit of 1 was drawn onto a dark pixel (X, Y not `VF`, whose value the first draw
replaces). -/
def Obligations.DrawingTwiceRestoresScreen : Prop :=
  ∀ (x y : RegIdx) (n : RowCount) (s t u : State), x ≠ 0xF#4 → y ≠ 0xF#4 →
    (n.toNat = 0 ∨ s.i.toNat + n.toNat - 1 ≤ 0xFFF) →
    exec (.drw x y n) s = .next t → exec (.drw x y n) t = .next u →
    (∀ px py, pixelAt u.fb px py = pixelAt s.fb px py) ∧
    (u.readV 0xF#4 = 1#8 ↔ ∃ px py, UnderSprite s x y n px py ∧ pixelAt s.fb px py = false)

/-! ### Keypad (45_keypad.md) -/

/-- R161, R162 (the fault is the spec's decision D6): SKP skips on a key that is down, SKNP on one that is up; a
key index above 15 raises KeyIndexOutOfRange(V[X]) and nothing else changes. -/
def Obligations.KeySkipsTestTheKey : Prop :=
  ∀ (x : RegIdx) (s : State),
    (∀ h : (s.readV x).toNat < 16,
      (∃ t, exec (.skp x) s = .next t ∧
        t.pc = (if s.keys[(s.readV x).toNat] = true then s.pc + 4#16 else s.pc + 2#16) ∧ ChangesOnly [.pc] s t) ∧
      (∃ t, exec (.sknp x) s = .next t ∧
        t.pc = (if s.keys[(s.readV x).toNat] = false then s.pc + 4#16 else s.pc + 2#16) ∧ ChangesOnly [.pc] s t)) ∧
    (15 < (s.readV x).toNat →
      (∃ t info, exec (.skp x) s = .next t ∧ t.status = .faulted .keyIndexOutOfRange info ∧
        info.toNat = (s.readV x).toNat ∧ ChangesOnly [.status] s t) ∧
      (∃ t info, exec (.sknp x) s = .next t ∧ t.status = .faulted .keyIndexOutOfRange info ∧
        info.toNat = (s.readV x).toNat ∧ ChangesOnly [.status] s t))

/-- R163 (the tie-break is decision D8, the source's own): with a key down X takes the lowest such index; with
none down the wait is entered and `PC` stays. -/
def Obligations.WaitForKeyTakesLowest : Prop :=
  ∀ (x : RegIdx) (s : State),
    (∀ k : Fin 16, s.keys[k.val] = true → (∀ j : Fin 16, j < k → s.keys[j.val] = false) →
      ∃ t, exec (.ldVxK x) s = .next t ∧ (t.readV x).toNat = k.val ∧ RegsSameBut [x] s t ∧
        t.pc = s.pc + 2#16 ∧ ChangesOnly [.regs, .pc] s t) ∧
    ((∀ k : Fin 16, s.keys[k.val] = false) →
      ∃ t, exec (.ldVxK x) s = .next t ∧ t.status = .awaitingKey x ∧ ChangesOnly [.status] s t)

/-- R94 under R194 (the spec's decision D22): while waiting, the CYCLE that does nothing and a CYCLE that runs the
wait instruction again come to the same state. -/
def Obligations.IdleWaitEqualsRetry : Prop :=
  ∀ (s : State) (x : RegIdx), s.KeysUpInWait → s.status = .awaitingKey x →
    ∃ t, exec (.ldVxK x) (s.setStatus .running) = .next t ∧ step s = .next t

/-! ### Timers and sound (46_timers_sound.md) -/

/-- R171, R172: the delay timer is read into X, and written from X. -/
def Obligations.DelayTimerTransfers : Prop :=
  ∀ (x : RegIdx) (s : State),
    (∃ t, exec (.ldVxDt x) s = .next t ∧ t.readV x = s.dt ∧ RegsSameBut [x] s t ∧
      t.pc = s.pc + 2#16 ∧ ChangesOnly [.regs, .pc] s t) ∧
    (∃ t, exec (.ldDtVx x) s = .next t ∧ t.dt = s.readV x ∧
      t.pc = s.pc + 2#16 ∧ ChangesOnly [.delay, .pc] s t)

/-- R173 (the stall is the spec's decision D7, log entry 14): with no sound pending `ST` and `sound_duration` take
V[X] and `sound_pending` is raised; with one pending nothing changes at all. -/
def Obligations.SetSoundRaisesOrStalls : Prop :=
  ∀ (x : RegIdx) (s : State),
    (s.soundPending = false → ∃ t, exec (.ldStVx x) s = .next t ∧ t.st = s.readV x ∧
      t.soundDuration = s.readV x ∧ t.soundPending = true ∧ t.pc = s.pc + 2#16 ∧
      ChangesOnly [.sound, .duration, .pending, .pc] s t) ∧
    (s.soundPending = true → exec (.ldStVx x) s = .next s)

/-! ### Host operations (60_exceptions.md, 70_reset_and_hazards.md) -/

/-- R210 (decisions D12, D14: the font bytes and four reset values are the spec's own; log entries 3 and 14): INIT
gives the reset column from any state, and `State.reset` is that state. -/
def Obligations.InitGivesResetState : Prop :=
  IsResetState State.reset ∧ ∀ s : State, ∃ t, perform .init s = .next t ∧ IsResetState t

/-- R213, R214 (refusing is the spec's decision D15): LOAD of at most 3584 bytes writes them from 0x200 up and
changes nothing else; a longer one is refused. -/
def Obligations.LoadCopiesProgram : Prop :=
  ∀ (bytes : List Byte) (s : State), s.mem.wf = true →
    (bytes.length ≤ 3584 → ∃ t, perform (.load bytes) s = .next t ∧
      (∀ (j : Nat) (h : j < bytes.length), t.mem.read (0x200 + j) = bytes[j]) ∧
      MemSameOutside 0x200 bytes.length s t ∧ ChangesOnly [.mem] s t) ∧
    (3584 < bytes.length → perform (.load bytes) s = .refused (.programTooLong bytes.length))

/-- R191 (its reach into every status is the spec's decision D26): TICK takes one from each timer that is not 0, and
changes nothing else. -/
def Obligations.TickDecaysBothTimers : Prop :=
  ∀ s : State, ∃ t, perform .tick s = .next t ∧
    t.dt.toNat = s.dt.toNat - 1 ∧ t.st.toNat = s.st.toNat - 1 ∧ ChangesOnly [.delay, .sound] s t

/-- R192, R193 (refusing and the Faulted case are the spec's decisions D19, D26): SETKEY writes the key state; a
press during the wait also stores the index, ends the wait and advances `PC`, in one operation; an index above 15
is refused. -/
def Obligations.SetKeyCompletesTheWait : Prop :=
  ∀ (k : Nat) (pressed : Bool) (s : State),
    (∀ h : k < 16, ∃ t, perform (.setKey k pressed) s = .next t ∧ t.keys[k] = pressed ∧
      (∀ j : Fin 16, j.val ≠ k → t.keys[j.val] = s.keys[j.val]) ∧
      (∀ x, s.status = .awaitingKey x → pressed = true →
        (t.readV x).toNat = k ∧ RegsSameBut [x] s t ∧ t.status = .running ∧ t.pc = s.pc + 2#16 ∧
        ChangesOnly [.keys, .regs, .status, .pc] s t) ∧
      ((∀ x, s.status ≠ .awaitingKey x) ∨ pressed = false → ChangesOnly [.keys] s t)) ∧
    (15 < k → perform (.setKey k pressed) s = .refused (.keyOutsideContract k))

/-- R195 to R197 (decisions D17, D19): each acknowledge clears its flag and nothing else; PIXEL answers the pixel
inside the grid and is refused outside; the flag queries answer their components. -/
def Obligations.AcknowledgesAndQueries : Prop :=
  ∀ s : State,
    (∃ t, perform .ackRedraw s = .next t ∧ t.redraw = false ∧ ChangesOnly [.redraw] s t) ∧
    (∃ t, perform .ackSound s = .next t ∧ t.soundPending = false ∧ ChangesOnly [.pending] s t) ∧
    (∀ (px : Fin 64) (py : Fin 32), queryPixel s px.val py.val = .ok (pixelAt s.fb px py)) ∧
    (∀ px py : Nat, 64 ≤ px ∨ 32 ≤ py → queryPixel s px py = .error (.pixelOutsideGrid px py)) ∧
    queryRedraw s = s.redraw ∧ querySoundPending s = s.soundPending ∧ querySoundDuration s = s.soundDuration

/-- R183, R199 (the spec's decisions D1, D26): once `Faulted`, no operation but INIT changes `status`. -/
def Obligations.FaultedIsSticky : Prop :=
  ∀ (op : Operation) (s t : State) (c : Cause) (info : Word), op ≠ .init → s.status = .faulted c info →
    perform op s = .next t → t.status = .faulted c info

/-! ### Invariants -/

/-- The invariant holds at reset; that memory has a canonical form is the model's choice (log entry 7). -/
def Obligations.InvariantHoldsAtReset : Prop := State.reset.Inv

/-- Every step keeps the invariant: canonical memory (the model's own form, log entry 7), keys up in the wait (R194),
`PC` and stack in reach (R27), a recorded fault is the true one (R182, R183; the spec's decisions D1, D26). -/
def Obligations.StepKeepsInvariant : Prop :=
  ∀ s t : State, s.Inv → step s = .next t → t.Inv

/-- Every host operation keeps the invariant, so it holds of every state any schedule reaches (R190; the spec's
decisions D23, D29): canonical memory (the model's own form, log entry 7), keys up in the wait (R194), `PC` and stack
in reach (R27), a recorded fault is the true one (R182, R183, R199; decisions D1, D26). -/
def Obligations.EveryReachableStateMeetsInvariant : Prop :=
  (∀ (op : Operation) (s t : State), s.Inv → perform op s = .next t → t.Inv) ∧
  ∀ s : State, Reachable s → s.Inv

/-- In canonical form (the model's own, log entry 7) equal memories are equal data: two that read alike at every address are the same list. -/
def Obligations.CanonicalMemoriesThatReadAlikeAreEqual : Prop :=
  ∀ m n : Memory, m.wf = true → n.wf = true → (∀ a, m.read a = n.read a) → m = n

/-! ### The core and its inputs (10_state.md, 00_scope.md) -/

/-- R90, R12 (the spec's decision D18): a step is `CYCLE(rand)` on the core with the next free byte as its `rand`;
which byte that is, is the model's choice of log entries 1 and 2. -/
def Obligations.StepIsCycleWithFreeByte : Prop :=
  ∀ s : State, ∃ t u, step s = .next t ∧ perform (.cycle (Config.randomByte s.draws)) s = .next u ∧
    t.toCoreState = u.toCoreState

/-- R21, R20, R12: the core has no other state. What an operation does to the fourteen components, and whether it is
refused, depends on them and on the operation's own inputs alone (`rand` among them); the model's `draws` (log entry
2) is neither read nor written by any operation. -/
def Obligations.CoreStateIsClosed : Prop :=
  ∀ (op : Operation) (s s' : State), s.toCoreState = s'.toCoreState →
    (∀ t, perform op s = .next t → t.draws = s.draws ∧
      ∃ t', perform op s' = .next t' ∧ t'.toCoreState = t.toCoreState) ∧
    (∀ r, perform op s = .refused r → perform op s' = .refused r)
end

