-- ==== Sys2Proof/Laws/State.lean ====
section
/-! SUPPORT. What each named update of the state leaves in each component: one lemma per update and
field, so that no later proof unfolds a record update. -/

namespace Sys2Proof.Machine

variable (s : State)

@[simp] theorem State.setPc_mem (a : Word) : (s.setPc a).mem = s.mem := rfl
@[simp] theorem State.setPc_v (a : Word) : (s.setPc a).v = s.v := rfl
@[simp] theorem State.setPc_i (a : Word) : (s.setPc a).i = s.i := rfl
@[simp] theorem State.setPc_pc (a : Word) : (s.setPc a).pc = a := rfl
@[simp] theorem State.setPc_stack (a : Word) : (s.setPc a).stack = s.stack := rfl
@[simp] theorem State.setPc_sp (a : Word) : (s.setPc a).sp = s.sp := rfl
@[simp] theorem State.setPc_dt (a : Word) : (s.setPc a).dt = s.dt := rfl
@[simp] theorem State.setPc_st (a : Word) : (s.setPc a).st = s.st := rfl
@[simp] theorem State.setPc_fb (a : Word) : (s.setPc a).fb = s.fb := rfl
@[simp] theorem State.setPc_redraw (a : Word) : (s.setPc a).redraw = s.redraw := rfl
@[simp] theorem State.setPc_keys (a : Word) : (s.setPc a).keys = s.keys := rfl
@[simp] theorem State.setPc_status (a : Word) : (s.setPc a).status = s.status := rfl
@[simp] theorem State.setPc_soundPending (a : Word) : (s.setPc a).soundPending = s.soundPending := rfl
@[simp] theorem State.setPc_soundDuration (a : Word) : (s.setPc a).soundDuration = s.soundDuration := rfl
@[simp] theorem State.setPc_draws (a : Word) : (s.setPc a).draws = s.draws := rfl
@[simp] theorem State.setPc_readV (a : Word) (q : RegIdx) : (s.setPc a).readV q = s.readV q := rfl

@[simp] theorem State.setIndex_mem (a : Word) : (s.setIndex a).mem = s.mem := rfl
@[simp] theorem State.setIndex_v (a : Word) : (s.setIndex a).v = s.v := rfl
@[simp] theorem State.setIndex_i (a : Word) : (s.setIndex a).i = a := rfl
@[simp] theorem State.setIndex_pc (a : Word) : (s.setIndex a).pc = s.pc := rfl
@[simp] theorem State.setIndex_stack (a : Word) : (s.setIndex a).stack = s.stack := rfl
@[simp] theorem State.setIndex_sp (a : Word) : (s.setIndex a).sp = s.sp := rfl
@[simp] theorem State.setIndex_dt (a : Word) : (s.setIndex a).dt = s.dt := rfl
@[simp] theorem State.setIndex_st (a : Word) : (s.setIndex a).st = s.st := rfl
@[simp] theorem State.setIndex_fb (a : Word) : (s.setIndex a).fb = s.fb := rfl
@[simp] theorem State.setIndex_redraw (a : Word) : (s.setIndex a).redraw = s.redraw := rfl
@[simp] theorem State.setIndex_keys (a : Word) : (s.setIndex a).keys = s.keys := rfl
@[simp] theorem State.setIndex_status (a : Word) : (s.setIndex a).status = s.status := rfl
@[simp] theorem State.setIndex_soundPending (a : Word) : (s.setIndex a).soundPending = s.soundPending := rfl
@[simp] theorem State.setIndex_soundDuration (a : Word) : (s.setIndex a).soundDuration = s.soundDuration := rfl
@[simp] theorem State.setIndex_draws (a : Word) : (s.setIndex a).draws = s.draws := rfl
@[simp] theorem State.setIndex_readV (a : Word) (q : RegIdx) : (s.setIndex a).readV q = s.readV q := rfl

@[simp] theorem State.setMem_mem (m : Memory) : (s.setMem m).mem = m := rfl
@[simp] theorem State.setMem_v (m : Memory) : (s.setMem m).v = s.v := rfl
@[simp] theorem State.setMem_i (m : Memory) : (s.setMem m).i = s.i := rfl
@[simp] theorem State.setMem_pc (m : Memory) : (s.setMem m).pc = s.pc := rfl
@[simp] theorem State.setMem_stack (m : Memory) : (s.setMem m).stack = s.stack := rfl
@[simp] theorem State.setMem_sp (m : Memory) : (s.setMem m).sp = s.sp := rfl
@[simp] theorem State.setMem_dt (m : Memory) : (s.setMem m).dt = s.dt := rfl
@[simp] theorem State.setMem_st (m : Memory) : (s.setMem m).st = s.st := rfl
@[simp] theorem State.setMem_fb (m : Memory) : (s.setMem m).fb = s.fb := rfl
@[simp] theorem State.setMem_redraw (m : Memory) : (s.setMem m).redraw = s.redraw := rfl
@[simp] theorem State.setMem_keys (m : Memory) : (s.setMem m).keys = s.keys := rfl
@[simp] theorem State.setMem_status (m : Memory) : (s.setMem m).status = s.status := rfl
@[simp] theorem State.setMem_soundPending (m : Memory) : (s.setMem m).soundPending = s.soundPending := rfl
@[simp] theorem State.setMem_soundDuration (m : Memory) : (s.setMem m).soundDuration = s.soundDuration := rfl
@[simp] theorem State.setMem_draws (m : Memory) : (s.setMem m).draws = s.draws := rfl
@[simp] theorem State.setMem_readV (m : Memory) (q : RegIdx) : (s.setMem m).readV q = s.readV q := rfl

@[simp] theorem State.setRegs_mem (v : Vector Byte 16) : (s.setRegs v).mem = s.mem := rfl
@[simp] theorem State.setRegs_v (v : Vector Byte 16) : (s.setRegs v).v = v := rfl
@[simp] theorem State.setRegs_i (v : Vector Byte 16) : (s.setRegs v).i = s.i := rfl
@[simp] theorem State.setRegs_pc (v : Vector Byte 16) : (s.setRegs v).pc = s.pc := rfl
@[simp] theorem State.setRegs_stack (v : Vector Byte 16) : (s.setRegs v).stack = s.stack := rfl
@[simp] theorem State.setRegs_sp (v : Vector Byte 16) : (s.setRegs v).sp = s.sp := rfl
@[simp] theorem State.setRegs_dt (v : Vector Byte 16) : (s.setRegs v).dt = s.dt := rfl
@[simp] theorem State.setRegs_st (v : Vector Byte 16) : (s.setRegs v).st = s.st := rfl
@[simp] theorem State.setRegs_fb (v : Vector Byte 16) : (s.setRegs v).fb = s.fb := rfl
@[simp] theorem State.setRegs_redraw (v : Vector Byte 16) : (s.setRegs v).redraw = s.redraw := rfl
@[simp] theorem State.setRegs_keys (v : Vector Byte 16) : (s.setRegs v).keys = s.keys := rfl
@[simp] theorem State.setRegs_status (v : Vector Byte 16) : (s.setRegs v).status = s.status := rfl
@[simp] theorem State.setRegs_soundPending (v : Vector Byte 16) : (s.setRegs v).soundPending = s.soundPending := rfl
@[simp] theorem State.setRegs_soundDuration (v : Vector Byte 16) : (s.setRegs v).soundDuration = s.soundDuration := rfl
@[simp] theorem State.setRegs_draws (v : Vector Byte 16) : (s.setRegs v).draws = s.draws := rfl

@[simp] theorem State.setDelay_mem (b : Byte) : (s.setDelay b).mem = s.mem := rfl
@[simp] theorem State.setDelay_v (b : Byte) : (s.setDelay b).v = s.v := rfl
@[simp] theorem State.setDelay_i (b : Byte) : (s.setDelay b).i = s.i := rfl
@[simp] theorem State.setDelay_pc (b : Byte) : (s.setDelay b).pc = s.pc := rfl
@[simp] theorem State.setDelay_stack (b : Byte) : (s.setDelay b).stack = s.stack := rfl
@[simp] theorem State.setDelay_sp (b : Byte) : (s.setDelay b).sp = s.sp := rfl
@[simp] theorem State.setDelay_dt (b : Byte) : (s.setDelay b).dt = b := rfl
@[simp] theorem State.setDelay_st (b : Byte) : (s.setDelay b).st = s.st := rfl
@[simp] theorem State.setDelay_fb (b : Byte) : (s.setDelay b).fb = s.fb := rfl
@[simp] theorem State.setDelay_redraw (b : Byte) : (s.setDelay b).redraw = s.redraw := rfl
@[simp] theorem State.setDelay_keys (b : Byte) : (s.setDelay b).keys = s.keys := rfl
@[simp] theorem State.setDelay_status (b : Byte) : (s.setDelay b).status = s.status := rfl
@[simp] theorem State.setDelay_soundPending (b : Byte) : (s.setDelay b).soundPending = s.soundPending := rfl
@[simp] theorem State.setDelay_soundDuration (b : Byte) : (s.setDelay b).soundDuration = s.soundDuration := rfl
@[simp] theorem State.setDelay_draws (b : Byte) : (s.setDelay b).draws = s.draws := rfl
@[simp] theorem State.setDelay_readV (b : Byte) (q : RegIdx) : (s.setDelay b).readV q = s.readV q := rfl

@[simp] theorem State.setSound_mem (b : Byte) : (s.setSound b).mem = s.mem := rfl
@[simp] theorem State.setSound_v (b : Byte) : (s.setSound b).v = s.v := rfl
@[simp] theorem State.setSound_i (b : Byte) : (s.setSound b).i = s.i := rfl
@[simp] theorem State.setSound_pc (b : Byte) : (s.setSound b).pc = s.pc := rfl
@[simp] theorem State.setSound_stack (b : Byte) : (s.setSound b).stack = s.stack := rfl
@[simp] theorem State.setSound_sp (b : Byte) : (s.setSound b).sp = s.sp := rfl
@[simp] theorem State.setSound_dt (b : Byte) : (s.setSound b).dt = s.dt := rfl
@[simp] theorem State.setSound_st (b : Byte) : (s.setSound b).st = b := rfl
@[simp] theorem State.setSound_fb (b : Byte) : (s.setSound b).fb = s.fb := rfl
@[simp] theorem State.setSound_redraw (b : Byte) : (s.setSound b).redraw = s.redraw := rfl
@[simp] theorem State.setSound_keys (b : Byte) : (s.setSound b).keys = s.keys := rfl
@[simp] theorem State.setSound_status (b : Byte) : (s.setSound b).status = s.status := rfl
@[simp] theorem State.setSound_soundPending (b : Byte) : (s.setSound b).soundPending = s.soundPending := rfl
@[simp] theorem State.setSound_soundDuration (b : Byte) : (s.setSound b).soundDuration = s.soundDuration := rfl
@[simp] theorem State.setSound_draws (b : Byte) : (s.setSound b).draws = s.draws := rfl
@[simp] theorem State.setSound_readV (b : Byte) (q : RegIdx) : (s.setSound b).readV q = s.readV q := rfl

@[simp] theorem State.setPixels_mem (p : FrameBuffer) : (s.setPixels p).mem = s.mem := rfl
@[simp] theorem State.setPixels_v (p : FrameBuffer) : (s.setPixels p).v = s.v := rfl
@[simp] theorem State.setPixels_i (p : FrameBuffer) : (s.setPixels p).i = s.i := rfl
@[simp] theorem State.setPixels_pc (p : FrameBuffer) : (s.setPixels p).pc = s.pc := rfl
@[simp] theorem State.setPixels_stack (p : FrameBuffer) : (s.setPixels p).stack = s.stack := rfl
@[simp] theorem State.setPixels_sp (p : FrameBuffer) : (s.setPixels p).sp = s.sp := rfl
@[simp] theorem State.setPixels_dt (p : FrameBuffer) : (s.setPixels p).dt = s.dt := rfl
@[simp] theorem State.setPixels_st (p : FrameBuffer) : (s.setPixels p).st = s.st := rfl
@[simp] theorem State.setPixels_fb (p : FrameBuffer) : (s.setPixels p).fb = p := rfl
@[simp] theorem State.setPixels_redraw (p : FrameBuffer) : (s.setPixels p).redraw = s.redraw := rfl
@[simp] theorem State.setPixels_keys (p : FrameBuffer) : (s.setPixels p).keys = s.keys := rfl
@[simp] theorem State.setPixels_status (p : FrameBuffer) : (s.setPixels p).status = s.status := rfl
@[simp] theorem State.setPixels_soundPending (p : FrameBuffer) : (s.setPixels p).soundPending = s.soundPending := rfl
@[simp] theorem State.setPixels_soundDuration (p : FrameBuffer) : (s.setPixels p).soundDuration = s.soundDuration := rfl
@[simp] theorem State.setPixels_draws (p : FrameBuffer) : (s.setPixels p).draws = s.draws := rfl
@[simp] theorem State.setPixels_readV (p : FrameBuffer) (q : RegIdx) : (s.setPixels p).readV q = s.readV q := rfl

@[simp] theorem State.setRedraw_mem (b : Bool) : (s.setRedraw b).mem = s.mem := rfl
@[simp] theorem State.setRedraw_v (b : Bool) : (s.setRedraw b).v = s.v := rfl
@[simp] theorem State.setRedraw_i (b : Bool) : (s.setRedraw b).i = s.i := rfl
@[simp] theorem State.setRedraw_pc (b : Bool) : (s.setRedraw b).pc = s.pc := rfl
@[simp] theorem State.setRedraw_stack (b : Bool) : (s.setRedraw b).stack = s.stack := rfl
@[simp] theorem State.setRedraw_sp (b : Bool) : (s.setRedraw b).sp = s.sp := rfl
@[simp] theorem State.setRedraw_dt (b : Bool) : (s.setRedraw b).dt = s.dt := rfl
@[simp] theorem State.setRedraw_st (b : Bool) : (s.setRedraw b).st = s.st := rfl
@[simp] theorem State.setRedraw_fb (b : Bool) : (s.setRedraw b).fb = s.fb := rfl
@[simp] theorem State.setRedraw_redraw (b : Bool) : (s.setRedraw b).redraw = b := rfl
@[simp] theorem State.setRedraw_keys (b : Bool) : (s.setRedraw b).keys = s.keys := rfl
@[simp] theorem State.setRedraw_status (b : Bool) : (s.setRedraw b).status = s.status := rfl
@[simp] theorem State.setRedraw_soundPending (b : Bool) : (s.setRedraw b).soundPending = s.soundPending := rfl
@[simp] theorem State.setRedraw_soundDuration (b : Bool) : (s.setRedraw b).soundDuration = s.soundDuration := rfl
@[simp] theorem State.setRedraw_draws (b : Bool) : (s.setRedraw b).draws = s.draws := rfl
@[simp] theorem State.setRedraw_readV (b : Bool) (q : RegIdx) : (s.setRedraw b).readV q = s.readV q := rfl

@[simp] theorem State.setKeys_mem (k : Vector Bool 16) : (s.setKeys k).mem = s.mem := rfl
@[simp] theorem State.setKeys_v (k : Vector Bool 16) : (s.setKeys k).v = s.v := rfl
@[simp] theorem State.setKeys_i (k : Vector Bool 16) : (s.setKeys k).i = s.i := rfl
@[simp] theorem State.setKeys_pc (k : Vector Bool 16) : (s.setKeys k).pc = s.pc := rfl
@[simp] theorem State.setKeys_stack (k : Vector Bool 16) : (s.setKeys k).stack = s.stack := rfl
@[simp] theorem State.setKeys_sp (k : Vector Bool 16) : (s.setKeys k).sp = s.sp := rfl
@[simp] theorem State.setKeys_dt (k : Vector Bool 16) : (s.setKeys k).dt = s.dt := rfl
@[simp] theorem State.setKeys_st (k : Vector Bool 16) : (s.setKeys k).st = s.st := rfl
@[simp] theorem State.setKeys_fb (k : Vector Bool 16) : (s.setKeys k).fb = s.fb := rfl
@[simp] theorem State.setKeys_redraw (k : Vector Bool 16) : (s.setKeys k).redraw = s.redraw := rfl
@[simp] theorem State.setKeys_keys (k : Vector Bool 16) : (s.setKeys k).keys = k := rfl
@[simp] theorem State.setKeys_status (k : Vector Bool 16) : (s.setKeys k).status = s.status := rfl
@[simp] theorem State.setKeys_soundPending (k : Vector Bool 16) : (s.setKeys k).soundPending = s.soundPending := rfl
@[simp] theorem State.setKeys_soundDuration (k : Vector Bool 16) : (s.setKeys k).soundDuration = s.soundDuration := rfl
@[simp] theorem State.setKeys_draws (k : Vector Bool 16) : (s.setKeys k).draws = s.draws := rfl
@[simp] theorem State.setKeys_readV (k : Vector Bool 16) (q : RegIdx) : (s.setKeys k).readV q = s.readV q := rfl

@[simp] theorem State.setStatus_mem (x : Status) : (s.setStatus x).mem = s.mem := rfl
@[simp] theorem State.setStatus_v (x : Status) : (s.setStatus x).v = s.v := rfl
@[simp] theorem State.setStatus_i (x : Status) : (s.setStatus x).i = s.i := rfl
@[simp] theorem State.setStatus_pc (x : Status) : (s.setStatus x).pc = s.pc := rfl
@[simp] theorem State.setStatus_stack (x : Status) : (s.setStatus x).stack = s.stack := rfl
@[simp] theorem State.setStatus_sp (x : Status) : (s.setStatus x).sp = s.sp := rfl
@[simp] theorem State.setStatus_dt (x : Status) : (s.setStatus x).dt = s.dt := rfl
@[simp] theorem State.setStatus_st (x : Status) : (s.setStatus x).st = s.st := rfl
@[simp] theorem State.setStatus_fb (x : Status) : (s.setStatus x).fb = s.fb := rfl
@[simp] theorem State.setStatus_redraw (x : Status) : (s.setStatus x).redraw = s.redraw := rfl
@[simp] theorem State.setStatus_keys (x : Status) : (s.setStatus x).keys = s.keys := rfl
@[simp] theorem State.setStatus_status (x : Status) : (s.setStatus x).status = x := rfl
@[simp] theorem State.setStatus_soundPending (x : Status) : (s.setStatus x).soundPending = s.soundPending := rfl
@[simp] theorem State.setStatus_soundDuration (x : Status) : (s.setStatus x).soundDuration = s.soundDuration := rfl
@[simp] theorem State.setStatus_draws (x : Status) : (s.setStatus x).draws = s.draws := rfl
@[simp] theorem State.setStatus_readV (x : Status) (q : RegIdx) : (s.setStatus x).readV q = s.readV q := rfl

@[simp] theorem State.setPending_mem (b : Bool) : (s.setPending b).mem = s.mem := rfl
@[simp] theorem State.setPending_v (b : Bool) : (s.setPending b).v = s.v := rfl
@[simp] theorem State.setPending_i (b : Bool) : (s.setPending b).i = s.i := rfl
@[simp] theorem State.setPending_pc (b : Bool) : (s.setPending b).pc = s.pc := rfl
@[simp] theorem State.setPending_stack (b : Bool) : (s.setPending b).stack = s.stack := rfl
@[simp] theorem State.setPending_sp (b : Bool) : (s.setPending b).sp = s.sp := rfl
@[simp] theorem State.setPending_dt (b : Bool) : (s.setPending b).dt = s.dt := rfl
@[simp] theorem State.setPending_st (b : Bool) : (s.setPending b).st = s.st := rfl
@[simp] theorem State.setPending_fb (b : Bool) : (s.setPending b).fb = s.fb := rfl
@[simp] theorem State.setPending_redraw (b : Bool) : (s.setPending b).redraw = s.redraw := rfl
@[simp] theorem State.setPending_keys (b : Bool) : (s.setPending b).keys = s.keys := rfl
@[simp] theorem State.setPending_status (b : Bool) : (s.setPending b).status = s.status := rfl
@[simp] theorem State.setPending_soundPending (b : Bool) : (s.setPending b).soundPending = b := rfl
@[simp] theorem State.setPending_soundDuration (b : Bool) : (s.setPending b).soundDuration = s.soundDuration := rfl
@[simp] theorem State.setPending_draws (b : Bool) : (s.setPending b).draws = s.draws := rfl
@[simp] theorem State.setPending_readV (b : Bool) (q : RegIdx) : (s.setPending b).readV q = s.readV q := rfl

@[simp] theorem State.setDuration_mem (b : Byte) : (s.setDuration b).mem = s.mem := rfl
@[simp] theorem State.setDuration_v (b : Byte) : (s.setDuration b).v = s.v := rfl
@[simp] theorem State.setDuration_i (b : Byte) : (s.setDuration b).i = s.i := rfl
@[simp] theorem State.setDuration_pc (b : Byte) : (s.setDuration b).pc = s.pc := rfl
@[simp] theorem State.setDuration_stack (b : Byte) : (s.setDuration b).stack = s.stack := rfl
@[simp] theorem State.setDuration_sp (b : Byte) : (s.setDuration b).sp = s.sp := rfl
@[simp] theorem State.setDuration_dt (b : Byte) : (s.setDuration b).dt = s.dt := rfl
@[simp] theorem State.setDuration_st (b : Byte) : (s.setDuration b).st = s.st := rfl
@[simp] theorem State.setDuration_fb (b : Byte) : (s.setDuration b).fb = s.fb := rfl
@[simp] theorem State.setDuration_redraw (b : Byte) : (s.setDuration b).redraw = s.redraw := rfl
@[simp] theorem State.setDuration_keys (b : Byte) : (s.setDuration b).keys = s.keys := rfl
@[simp] theorem State.setDuration_status (b : Byte) : (s.setDuration b).status = s.status := rfl
@[simp] theorem State.setDuration_soundPending (b : Byte) : (s.setDuration b).soundPending = s.soundPending := rfl
@[simp] theorem State.setDuration_soundDuration (b : Byte) : (s.setDuration b).soundDuration = b := rfl
@[simp] theorem State.setDuration_draws (b : Byte) : (s.setDuration b).draws = s.draws := rfl
@[simp] theorem State.setDuration_readV (b : Byte) (q : RegIdx) : (s.setDuration b).readV q = s.readV q := rfl

@[simp] theorem State.nextDraw_mem : (s.nextDraw).mem = s.mem := rfl
@[simp] theorem State.nextDraw_v : (s.nextDraw).v = s.v := rfl
@[simp] theorem State.nextDraw_i : (s.nextDraw).i = s.i := rfl
@[simp] theorem State.nextDraw_pc : (s.nextDraw).pc = s.pc := rfl
@[simp] theorem State.nextDraw_stack : (s.nextDraw).stack = s.stack := rfl
@[simp] theorem State.nextDraw_sp : (s.nextDraw).sp = s.sp := rfl
@[simp] theorem State.nextDraw_dt : (s.nextDraw).dt = s.dt := rfl
@[simp] theorem State.nextDraw_st : (s.nextDraw).st = s.st := rfl
@[simp] theorem State.nextDraw_fb : (s.nextDraw).fb = s.fb := rfl
@[simp] theorem State.nextDraw_redraw : (s.nextDraw).redraw = s.redraw := rfl
@[simp] theorem State.nextDraw_keys : (s.nextDraw).keys = s.keys := rfl
@[simp] theorem State.nextDraw_status : (s.nextDraw).status = s.status := rfl
@[simp] theorem State.nextDraw_soundPending : (s.nextDraw).soundPending = s.soundPending := rfl
@[simp] theorem State.nextDraw_soundDuration : (s.nextDraw).soundDuration = s.soundDuration := rfl
@[simp] theorem State.nextDraw_draws : (s.nextDraw).draws = s.draws + 1 := rfl
@[simp] theorem State.nextDraw_readV (q : RegIdx) : (s.nextDraw).readV q = s.readV q := rfl

@[simp] theorem State.writeV_mem (r : RegIdx) (b : Byte) : (s.writeV r b).mem = s.mem := rfl
@[simp] theorem State.writeV_v (r : RegIdx) (b : Byte) : (s.writeV r b).v = s.v.set r.toNat b r.isLt := rfl
@[simp] theorem State.writeV_i (r : RegIdx) (b : Byte) : (s.writeV r b).i = s.i := rfl
@[simp] theorem State.writeV_pc (r : RegIdx) (b : Byte) : (s.writeV r b).pc = s.pc := rfl
@[simp] theorem State.writeV_stack (r : RegIdx) (b : Byte) : (s.writeV r b).stack = s.stack := rfl
@[simp] theorem State.writeV_sp (r : RegIdx) (b : Byte) : (s.writeV r b).sp = s.sp := rfl
@[simp] theorem State.writeV_dt (r : RegIdx) (b : Byte) : (s.writeV r b).dt = s.dt := rfl
@[simp] theorem State.writeV_st (r : RegIdx) (b : Byte) : (s.writeV r b).st = s.st := rfl
@[simp] theorem State.writeV_fb (r : RegIdx) (b : Byte) : (s.writeV r b).fb = s.fb := rfl
@[simp] theorem State.writeV_redraw (r : RegIdx) (b : Byte) : (s.writeV r b).redraw = s.redraw := rfl
@[simp] theorem State.writeV_keys (r : RegIdx) (b : Byte) : (s.writeV r b).keys = s.keys := rfl
@[simp] theorem State.writeV_status (r : RegIdx) (b : Byte) : (s.writeV r b).status = s.status := rfl
@[simp] theorem State.writeV_soundPending (r : RegIdx) (b : Byte) : (s.writeV r b).soundPending = s.soundPending := rfl
@[simp] theorem State.writeV_soundDuration (r : RegIdx) (b : Byte) : (s.writeV r b).soundDuration = s.soundDuration := rfl
@[simp] theorem State.writeV_draws (r : RegIdx) (b : Byte) : (s.writeV r b).draws = s.draws := rfl

@[simp] theorem State.writeFlagged_mem (f : Bool) (x : RegIdx) (b : Byte) : (s.writeFlagged f x b).mem = s.mem := rfl
@[simp] theorem State.writeFlagged_i (f : Bool) (x : RegIdx) (b : Byte) : (s.writeFlagged f x b).i = s.i := rfl
@[simp] theorem State.writeFlagged_pc (f : Bool) (x : RegIdx) (b : Byte) : (s.writeFlagged f x b).pc = s.pc := rfl
@[simp] theorem State.writeFlagged_stack (f : Bool) (x : RegIdx) (b : Byte) : (s.writeFlagged f x b).stack = s.stack := rfl
@[simp] theorem State.writeFlagged_sp (f : Bool) (x : RegIdx) (b : Byte) : (s.writeFlagged f x b).sp = s.sp := rfl
@[simp] theorem State.writeFlagged_dt (f : Bool) (x : RegIdx) (b : Byte) : (s.writeFlagged f x b).dt = s.dt := rfl
@[simp] theorem State.writeFlagged_st (f : Bool) (x : RegIdx) (b : Byte) : (s.writeFlagged f x b).st = s.st := rfl
@[simp] theorem State.writeFlagged_fb (f : Bool) (x : RegIdx) (b : Byte) : (s.writeFlagged f x b).fb = s.fb := rfl
@[simp] theorem State.writeFlagged_redraw (f : Bool) (x : RegIdx) (b : Byte) : (s.writeFlagged f x b).redraw = s.redraw := rfl
@[simp] theorem State.writeFlagged_keys (f : Bool) (x : RegIdx) (b : Byte) : (s.writeFlagged f x b).keys = s.keys := rfl
@[simp] theorem State.writeFlagged_status (f : Bool) (x : RegIdx) (b : Byte) : (s.writeFlagged f x b).status = s.status := rfl
@[simp] theorem State.writeFlagged_soundPending (f : Bool) (x : RegIdx) (b : Byte) : (s.writeFlagged f x b).soundPending = s.soundPending := rfl
@[simp] theorem State.writeFlagged_soundDuration (f : Bool) (x : RegIdx) (b : Byte) : (s.writeFlagged f x b).soundDuration = s.soundDuration := rfl
@[simp] theorem State.writeFlagged_draws (f : Bool) (x : RegIdx) (b : Byte) : (s.writeFlagged f x b).draws = s.draws := rfl

@[simp] theorem State.advance_mem : (s.advance).mem = s.mem := rfl
@[simp] theorem State.advance_v : (s.advance).v = s.v := rfl
@[simp] theorem State.advance_i : (s.advance).i = s.i := rfl
@[simp] theorem State.advance_pc : (s.advance).pc = s.pc + 2#16 := rfl
@[simp] theorem State.advance_stack : (s.advance).stack = s.stack := rfl
@[simp] theorem State.advance_sp : (s.advance).sp = s.sp := rfl
@[simp] theorem State.advance_dt : (s.advance).dt = s.dt := rfl
@[simp] theorem State.advance_st : (s.advance).st = s.st := rfl
@[simp] theorem State.advance_fb : (s.advance).fb = s.fb := rfl
@[simp] theorem State.advance_redraw : (s.advance).redraw = s.redraw := rfl
@[simp] theorem State.advance_keys : (s.advance).keys = s.keys := rfl
@[simp] theorem State.advance_status : (s.advance).status = s.status := rfl
@[simp] theorem State.advance_soundPending : (s.advance).soundPending = s.soundPending := rfl
@[simp] theorem State.advance_soundDuration : (s.advance).soundDuration = s.soundDuration := rfl
@[simp] theorem State.advance_draws : (s.advance).draws = s.draws := rfl
@[simp] theorem State.advance_readV (q : RegIdx) : (s.advance).readV q = s.readV q := rfl

@[simp] theorem State.skipIf_mem (b : Bool) : (s.skipIf b).mem = s.mem := rfl
@[simp] theorem State.skipIf_v (b : Bool) : (s.skipIf b).v = s.v := rfl
@[simp] theorem State.skipIf_i (b : Bool) : (s.skipIf b).i = s.i := rfl
@[simp] theorem State.skipIf_pc (b : Bool) : (s.skipIf b).pc = if b then s.pc + 4#16 else s.pc + 2#16 := rfl
@[simp] theorem State.skipIf_stack (b : Bool) : (s.skipIf b).stack = s.stack := rfl
@[simp] theorem State.skipIf_sp (b : Bool) : (s.skipIf b).sp = s.sp := rfl
@[simp] theorem State.skipIf_dt (b : Bool) : (s.skipIf b).dt = s.dt := rfl
@[simp] theorem State.skipIf_st (b : Bool) : (s.skipIf b).st = s.st := rfl
@[simp] theorem State.skipIf_fb (b : Bool) : (s.skipIf b).fb = s.fb := rfl
@[simp] theorem State.skipIf_redraw (b : Bool) : (s.skipIf b).redraw = s.redraw := rfl
@[simp] theorem State.skipIf_keys (b : Bool) : (s.skipIf b).keys = s.keys := rfl
@[simp] theorem State.skipIf_status (b : Bool) : (s.skipIf b).status = s.status := rfl
@[simp] theorem State.skipIf_soundPending (b : Bool) : (s.skipIf b).soundPending = s.soundPending := rfl
@[simp] theorem State.skipIf_soundDuration (b : Bool) : (s.skipIf b).soundDuration = s.soundDuration := rfl
@[simp] theorem State.skipIf_draws (b : Bool) : (s.skipIf b).draws = s.draws := rfl
@[simp] theorem State.skipIf_readV (b : Bool) (q : RegIdx) : (s.skipIf b).readV q = s.readV q := rfl

@[simp] theorem State.push_mem (a : Word) : (s.push a).mem = s.mem := rfl
@[simp] theorem State.push_v (a : Word) : (s.push a).v = s.v := rfl
@[simp] theorem State.push_i (a : Word) : (s.push a).i = s.i := rfl
@[simp] theorem State.push_pc (a : Word) : (s.push a).pc = s.pc := rfl
@[simp] theorem State.push_stack (a : Word) : (s.push a).stack = s.stack.setIfInBounds s.sp.val a := rfl
@[simp] theorem State.push_sp (a : Word) : (s.push a).sp = ⟨min (s.sp.val + 1) 16, by omega⟩ := rfl
@[simp] theorem State.push_dt (a : Word) : (s.push a).dt = s.dt := rfl
@[simp] theorem State.push_st (a : Word) : (s.push a).st = s.st := rfl
@[simp] theorem State.push_fb (a : Word) : (s.push a).fb = s.fb := rfl
@[simp] theorem State.push_redraw (a : Word) : (s.push a).redraw = s.redraw := rfl
@[simp] theorem State.push_keys (a : Word) : (s.push a).keys = s.keys := rfl
@[simp] theorem State.push_status (a : Word) : (s.push a).status = s.status := rfl
@[simp] theorem State.push_soundPending (a : Word) : (s.push a).soundPending = s.soundPending := rfl
@[simp] theorem State.push_soundDuration (a : Word) : (s.push a).soundDuration = s.soundDuration := rfl
@[simp] theorem State.push_draws (a : Word) : (s.push a).draws = s.draws := rfl
@[simp] theorem State.push_readV (a : Word) (q : RegIdx) : (s.push a).readV q = s.readV q := rfl

@[simp] theorem State.pop_mem : (s.pop).mem = s.mem := rfl
@[simp] theorem State.pop_v : (s.pop).v = s.v := rfl
@[simp] theorem State.pop_i : (s.pop).i = s.i := rfl
@[simp] theorem State.pop_pc : (s.pop).pc = s.pc := rfl
@[simp] theorem State.pop_stack : (s.pop).stack = s.stack := rfl
@[simp] theorem State.pop_sp : (s.pop).sp = ⟨s.sp.val - 1, by omega⟩ := rfl
@[simp] theorem State.pop_dt : (s.pop).dt = s.dt := rfl
@[simp] theorem State.pop_st : (s.pop).st = s.st := rfl
@[simp] theorem State.pop_fb : (s.pop).fb = s.fb := rfl
@[simp] theorem State.pop_redraw : (s.pop).redraw = s.redraw := rfl
@[simp] theorem State.pop_keys : (s.pop).keys = s.keys := rfl
@[simp] theorem State.pop_status : (s.pop).status = s.status := rfl
@[simp] theorem State.pop_soundPending : (s.pop).soundPending = s.soundPending := rfl
@[simp] theorem State.pop_soundDuration : (s.pop).soundDuration = s.soundDuration := rfl
@[simp] theorem State.pop_draws : (s.pop).draws = s.draws := rfl
@[simp] theorem State.pop_readV (q : RegIdx) : (s.pop).readV q = s.readV q := rfl

@[simp] theorem State.writeKey_mem (k : Nat) (b : Bool) : (s.writeKey k b).mem = s.mem := rfl
@[simp] theorem State.writeKey_v (k : Nat) (b : Bool) : (s.writeKey k b).v = s.v := rfl
@[simp] theorem State.writeKey_i (k : Nat) (b : Bool) : (s.writeKey k b).i = s.i := rfl
@[simp] theorem State.writeKey_pc (k : Nat) (b : Bool) : (s.writeKey k b).pc = s.pc := rfl
@[simp] theorem State.writeKey_stack (k : Nat) (b : Bool) : (s.writeKey k b).stack = s.stack := rfl
@[simp] theorem State.writeKey_sp (k : Nat) (b : Bool) : (s.writeKey k b).sp = s.sp := rfl
@[simp] theorem State.writeKey_dt (k : Nat) (b : Bool) : (s.writeKey k b).dt = s.dt := rfl
@[simp] theorem State.writeKey_st (k : Nat) (b : Bool) : (s.writeKey k b).st = s.st := rfl
@[simp] theorem State.writeKey_fb (k : Nat) (b : Bool) : (s.writeKey k b).fb = s.fb := rfl
@[simp] theorem State.writeKey_redraw (k : Nat) (b : Bool) : (s.writeKey k b).redraw = s.redraw := rfl
@[simp] theorem State.writeKey_keys (k : Nat) (b : Bool) : (s.writeKey k b).keys = s.keys.setIfInBounds k b := rfl
@[simp] theorem State.writeKey_status (k : Nat) (b : Bool) : (s.writeKey k b).status = s.status := rfl
@[simp] theorem State.writeKey_soundPending (k : Nat) (b : Bool) : (s.writeKey k b).soundPending = s.soundPending := rfl
@[simp] theorem State.writeKey_soundDuration (k : Nat) (b : Bool) : (s.writeKey k b).soundDuration = s.soundDuration := rfl
@[simp] theorem State.writeKey_draws (k : Nat) (b : Bool) : (s.writeKey k b).draws = s.draws := rfl
@[simp] theorem State.writeKey_readV (k : Nat) (b : Bool) (q : RegIdx) : (s.writeKey k b).readV q = s.readV q := rfl

/-! The core inside the state: `draws` is no part of it. -/

@[simp] theorem State.nextDraw_toCoreState : s.nextDraw.toCoreState = s.toCoreState := rfl
@[simp] theorem initialise_toCoreState : (initialise s).toCoreState = State.reset.toCoreState := rfl
@[simp] theorem initialise_draws : (initialise s).draws = s.draws := rfl

/-- A state is its core and the place in the free bytes. -/
theorem State.eq_of_core {s t : State} (hc : s.toCoreState = t.toCoreState) (hd : s.draws = t.draws) : s = t := by
  cases s; cases t; simp_all

end Sys2Proof.Machine
end

