-- ==== Sys2Proof/Laws/Display.lean ====
section
/-! SUPPORT. What the blit of R152 (`44_display.md`) does to each pixel, and when it finds a collision: a
pixel is toggled exactly when its column and row offsets fall on a sprite bit of 1. -/

namespace Sys2Proof.Machine

theorem pixelAt_setPixel (fb : FrameBuffer) (x px : Fin 64) (y py : Fin 32) (b : Bool) :
    pixelAt (setPixel fb x y b) px py = if px = x ∧ py = y then b else pixelAt fb px py := by
  unfold pixelAt setPixel
  rw [Vector.getElem_set]
  by_cases hx : x.val = px.val
  · have : px = x := Fin.ext hx.symm
    subst this
    simp [Vector.getElem_set, Fin.ext_iff, eq_comm]
  · rw [if_neg hx, if_neg (by simp [Fin.ext_iff]; omega)]

@[simp] theorem pixelAt_blankScreen (x : Fin 64) (y : Fin 32) : pixelAt blankScreen x y = false := by
  simp [pixelAt, blankScreen]

/-- Two frame buffers with the same pixels are equal. -/
theorem frameBuffer_ext {f g : FrameBuffer} (h : ∀ x y, pixelAt f x y = pixelAt g x y) : f = g := by
  apply Vector.ext
  intro x hx
  apply Vector.ext
  intro y hy
  exact h ⟨x, hx⟩ ⟨y, hy⟩

/-- The column offset of pixel column `px` from a sprite drawn at `vx`. -/
def colOffset (vx : Nat) (px : Fin 64) : Nat := (px.val + (64 - vx % 64)) % 64

/-- The row offset of pixel row `py` from a sprite drawn at `vy`. -/
def rowOffset (vy : Nat) (py : Fin 32) : Nat := (py.val + (32 - vy % 32)) % 32

theorem eq_wrapX_iff (vx : Nat) (px : Fin 64) {c : Nat} (hc : c < 64) :
    px = wrapX (vx + c) ↔ colOffset vx px = c := by
  have := px.isLt
  simp only [wrapX, Fin.ext_iff, Fin.val_ofNat, colOffset]
  omega

theorem eq_wrapY_iff (vy : Nat) (py : Fin 32) {r : Nat} (hr : r < 32) :
    py = wrapY (vy + r) ↔ rowOffset vy py = r := by
  have := py.isLt
  simp only [wrapY, Fin.ext_iff, Fin.val_ofNat, rowOffset]
  omega

/-- A row's first `n` columns toggle the pixels of that row whose column offset is on a bit of 1. -/
theorem pixelAt_blitCols (vx : Nat) (y : Fin 32) (b : Byte) (n : Nat) (hn : n ≤ 8) (d : FrameBuffer × Bool)
    (px : Fin 64) (py : Fin 32) :
    pixelAt (blitCols vx y b n d).1 px py =
      (pixelAt d.1 px py ^^ (decide (py = y) && decide (colOffset vx px < n) && b.getLsbD (7 - colOffset vx px))) := by
  induction n with
  | zero => simp [blitCols]
  | succ n ih =>
    have ih := ih (by omega)
    rw [blitCols, blitBit]
    by_cases hp : px = wrapX (vx + n) ∧ py = y
    · obtain ⟨hx, rfl⟩ := hp
      have hc := (eq_wrapX_iff vx px (by omega)).mp hx
      rw [hc] at ih ⊢
      cases hb : b.getLsbD (7 - n)
      · simp [ih, hb]
      · simp only [pixelAt_setPixel, hx, and_self, if_pos]
        rw [← hx, ih]; simp
    · have key : pixelAt (if b.getLsbD (7 - n) = true then
          (setPixel (blitCols vx y b n d).1 (wrapX (vx + n)) y (!pixelAt (blitCols vx y b n d).1 (wrapX (vx + n)) y),
            (blitCols vx y b n d).2 || pixelAt (blitCols vx y b n d).1 (wrapX (vx + n)) y)
          else blitCols vx y b n d).1 px py = pixelAt (blitCols vx y b n d).1 px py := by
        split
        · rw [pixelAt_setPixel, if_neg hp]
        · rfl
      rw [key, ih]
      by_cases hy : py = y
      · have hc : colOffset vx px ≠ n := fun h => hp ⟨(eq_wrapX_iff vx px (by omega)).mpr h, hy⟩
        have : (colOffset vx px < n) = (colOffset vx px < n + 1) := by
          apply propext; omega
        simp only [this]
      · simp [hy]

/-- A row's first `n` columns find a collision exactly where a bit of 1 meets a lit pixel of that row. -/
theorem collision_blitCols (vx : Nat) (y : Fin 32) (b : Byte) (n : Nat) (hn : n ≤ 8) (d : FrameBuffer × Bool) :
    (blitCols vx y b n d).2 = true ↔
      d.2 = true ∨ ∃ px, colOffset vx px < n ∧ b.getLsbD (7 - colOffset vx px) = true ∧ pixelAt d.1 px y = true := by
  induction n with
  | zero => simp [blitCols]
  | succ n ih =>
    have ih := ih (by omega)
    have hc : colOffset vx (wrapX (vx + n)) = n := (eq_wrapX_iff vx _ (by omega)).mp rfl
    have old : pixelAt (blitCols vx y b n d).1 (wrapX (vx + n)) y = pixelAt d.1 (wrapX (vx + n)) y := by
      rw [pixelAt_blitCols vx y b n (by omega), hc]; simp
    have split_px : (∃ px, colOffset vx px < n + 1 ∧ b.getLsbD (7 - colOffset vx px) = true ∧ pixelAt d.1 px y = true) ↔
        (∃ px, colOffset vx px < n ∧ b.getLsbD (7 - colOffset vx px) = true ∧ pixelAt d.1 px y = true) ∨
        (b.getLsbD (7 - n) = true ∧ pixelAt d.1 (wrapX (vx + n)) y = true) := by
      constructor
      · rintro ⟨px, h1, h2, h3⟩
        by_cases h : colOffset vx px = n
        · have := (eq_wrapX_iff vx px (by omega)).mpr h
          subst this
          exact .inr ⟨by rwa [h] at h2, h3⟩
        · exact .inl ⟨px, by omega, h2, h3⟩
      · rintro (⟨px, h1, h2, h3⟩ | ⟨h2, h3⟩)
        · exact ⟨px, by omega, h2, h3⟩
        · exact ⟨_, by omega, by rwa [hc], h3⟩
    rw [split_px, blitCols, blitBit]
    cases hb : b.getLsbD (7 - n)
    · simpa using ih
    · simp only [if_true, Bool.or_eq_true, old, ih, true_and, or_assoc]

/-- Rows `r`, `r + 1`, ... toggle the pixels whose offsets are on a bit of 1 of their row's byte. -/
theorem pixelAt_blitRows (vx vy r : Nat) (bs : List Byte) (hr : r + bs.length ≤ 32) (d : FrameBuffer × Bool)
    (px : Fin 64) (py : Fin 32) :
    pixelAt (blitRows vx vy r bs d).1 px py =
      (pixelAt d.1 px py ^^ (decide (r ≤ rowOffset vy py) && decide (colOffset vx px < 8) &&
        (bs[rowOffset vy py - r]?.getD 0#8).getLsbD (7 - colOffset vx px))) := by
  induction bs generalizing r d with
  | nil => simp [blitRows]
  | cons b bs ih =>
    simp only [List.length_cons] at hr
    rw [blitRows, ih (r + 1) (by omega), pixelAt_blitCols _ _ _ _ (Nat.le_refl 8)]
    have hy := eq_wrapY_iff vy py (r := r) (by omega)
    by_cases h : rowOffset vy py = r
    · simp [hy, h]
    · by_cases hlt : r + 1 ≤ rowOffset vy py
      · have e : rowOffset vy py - r = (rowOffset vy py - (r + 1)) + 1 := by omega
        simp [hy, h, hlt, e, show r ≤ rowOffset vy py by omega]
      · simp [hy, h, hlt, show ¬ r ≤ rowOffset vy py by omega]

/-- Rows `r`, `r + 1`, ... find a collision exactly where a bit of 1 meets a lit pixel. -/
theorem collision_blitRows (vx vy r : Nat) (bs : List Byte) (hr : r + bs.length ≤ 32) (d : FrameBuffer × Bool) :
    (blitRows vx vy r bs d).2 = true ↔
      d.2 = true ∨ ∃ px py, r ≤ rowOffset vy py ∧ colOffset vx px < 8 ∧
        (bs[rowOffset vy py - r]?.getD 0#8).getLsbD (7 - colOffset vx px) = true ∧ pixelAt d.1 px py = true := by
  induction bs generalizing r d with
  | nil => simp [blitRows]
  | cons b bs ih =>
    simp only [List.length_cons] at hr
    rw [blitRows, ih (r + 1) (by omega), collision_blitCols _ _ _ _ (Nat.le_refl 8), or_assoc]
    refine or_congr_right ?_
    have hw : rowOffset vy (wrapY (vy + r)) = r := (eq_wrapY_iff vy _ (by omega)).mp rfl
    constructor
    · rintro (⟨px, h1, h2, h3⟩ | ⟨px, py, h1, h2, h3, h4⟩)
      · exact ⟨px, wrapY (vy + r), by omega, h1, by simpa [hw] using h2, h3⟩
      · have e : rowOffset vy py - r = (rowOffset vy py - (r + 1)) + 1 := by omega
        have hne : py ≠ wrapY (vy + r) := fun h => by
          have := (eq_wrapY_iff vy py (by omega)).mp h; omega
        refine ⟨px, py, by omega, h2, by simpa [e] using h3, ?_⟩
        rw [pixelAt_blitCols _ _ _ _ (Nat.le_refl 8)] at h4
        simpa [hne] using h4
    · rintro ⟨px, py, h1, h2, h3, h4⟩
      by_cases h : rowOffset vy py = r
      · have := (eq_wrapY_iff vy py (by omega)).mpr h
        subst this
        exact .inl ⟨px, h2, by simpa [hw] using h3, h4⟩
      · have e : rowOffset vy py - r = (rowOffset vy py - (r + 1)) + 1 := by omega
        have hne : py ≠ wrapY (vy + r) := fun h' => h ((eq_wrapY_iff vy py (by omega)).mp h')
        refine .inr ⟨px, py, by omega, h2, by simpa [e] using h3, ?_⟩
        rw [pixelAt_blitCols _ _ _ _ (Nat.le_refl 8)]
        simpa [hne] using h4

end Sys2Proof.Machine
end

