-- ==== Sys2Proof/Laws/Encoding.lean ====
section
/-! SUPPORT. The fields of an encoded word (R72, R81 `30_encoding.md`), and each kind of mask of the opcode
map as a test of fields (R75), so that no later proof reasons about single bits. -/

namespace Sys2Proof

@[simp] theorem fieldClass_wordNNN (p : Word) (a : Addr) : fieldClass (wordNNN p a) = fieldClass p := by
  apply BitVec.eq_of_getLsbD_eq; intro i h
  interval_cases i <;> simp [fieldClass, wordNNN]

@[simp] theorem fieldNNN_wordNNN (p : Word) (a : Addr) : fieldNNN (wordNNN p a) = fieldNNN p ||| a := by
  apply BitVec.eq_of_getLsbD_eq; intro i h
  interval_cases i <;> simp [fieldNNN, wordNNN]

@[simp] theorem fieldClass_wordXNN (p : Word) (x : RegIdx) (nn : Byte) :
    fieldClass (wordXNN p x nn) = fieldClass p := by
  apply BitVec.eq_of_getLsbD_eq; intro i h
  interval_cases i <;> simp [fieldClass, wordXNN]

@[simp] theorem fieldX_wordXNN (p : Word) (x : RegIdx) (nn : Byte) : fieldX (wordXNN p x nn) = fieldX p ||| x := by
  apply BitVec.eq_of_getLsbD_eq; intro i h
  interval_cases i <;> simp [fieldX, wordXNN]

@[simp] theorem fieldNN_wordXNN (p : Word) (x : RegIdx) (nn : Byte) : fieldNN (wordXNN p x nn) = fieldNN p ||| nn := by
  apply BitVec.eq_of_getLsbD_eq; intro i h
  interval_cases i <;> simp [fieldNN, wordXNN]

@[simp] theorem fieldClass_wordXYN (p : Word) (x y : RegIdx) (n : RowCount) :
    fieldClass (wordXYN p x y n) = fieldClass p := by
  apply BitVec.eq_of_getLsbD_eq; intro i h
  interval_cases i <;> simp [fieldClass, wordXYN]

@[simp] theorem fieldX_wordXYN (p : Word) (x y : RegIdx) (n : RowCount) :
    fieldX (wordXYN p x y n) = fieldX p ||| x := by
  apply BitVec.eq_of_getLsbD_eq; intro i h
  interval_cases i <;> simp [fieldX, wordXYN]

@[simp] theorem fieldY_wordXYN (p : Word) (x y : RegIdx) (n : RowCount) :
    fieldY (wordXYN p x y n) = fieldY p ||| y := by
  apply BitVec.eq_of_getLsbD_eq; intro i h
  interval_cases i <;> simp [fieldY, wordXYN]

@[simp] theorem fieldN_wordXYN (p : Word) (x y : RegIdx) (n : RowCount) :
    fieldN (wordXYN p x y n) = fieldN p ||| n := by
  apply BitVec.eq_of_getLsbD_eq; intro i h
  interval_cases i <;> simp [fieldN, wordXYN]

@[simp] theorem fieldN_wordXNN (p : Word) (x : RegIdx) (nn : Byte) :
    fieldN (wordXNN p x nn) = fieldN p ||| nn.extractLsb' 0 4 := by
  apply BitVec.eq_of_getLsbD_eq; intro i h
  interval_cases i <;> simp [fieldN, wordXNN]

/-- Two words with the same four fields are equal (R71). -/
theorem word_ext {w u : Word} (hc : fieldClass w = fieldClass u) (hx : fieldX w = fieldX u)
    (hy : fieldY w = fieldY u) (hn : fieldN w = fieldN u) : w = u := by
  apply BitVec.eq_of_getLsbD_eq; intro i h
  have a := congrArg (·.getLsbD (i - 12)) hc
  have b := congrArg (·.getLsbD (i - 8)) hx
  have c := congrArg (·.getLsbD (i - 4)) hy
  have d := congrArg (·.getLsbD i) hn
  simp only [fieldClass, fieldX, fieldY, fieldN, BitVec.getLsbD_extractLsb'] at a b c d
  interval_cases i <;> simp_all

/-- Mask 0xF000 tests the class. -/
theorem and_classMask (w p : Word) (hp : p &&& 0x0FFF#16 = 0#16) :
    (w &&& 0xF000#16 == p) = (fieldClass w == fieldClass p) := by
  rw [Bool.eq_iff_iff, beq_iff_eq, beq_iff_eq]
  constructor
  · rintro rfl
    apply BitVec.eq_of_getLsbD_eq; intro i h
    interval_cases i <;> simp [fieldClass]
  · intro hc
    apply BitVec.eq_of_getLsbD_eq; intro i h
    have a := congrArg (·.getLsbD (i - 12)) hc
    have b := congrArg (·.getLsbD i) hp
    simp only [fieldClass, BitVec.getLsbD_extractLsb'] at a b
    clear hp
    interval_cases i <;> simp_all

/-- Mask 0xF00F tests the class and the bottom nibble. -/
theorem and_nibbleMask (w p : Word) (hp : p &&& 0x0FF0#16 = 0#16) :
    (w &&& 0xF00F#16 == p) = (fieldClass w == fieldClass p && fieldN w == fieldN p) := by
  rw [Bool.eq_iff_iff, Bool.and_eq_true, beq_iff_eq, beq_iff_eq, beq_iff_eq]
  constructor
  · rintro rfl
    constructor
    · apply BitVec.eq_of_getLsbD_eq; intro i h
      interval_cases i <;> simp [fieldClass]
    · apply BitVec.eq_of_getLsbD_eq; intro i h
      interval_cases i <;> simp [fieldN]
  · rintro ⟨hc, hn⟩
    apply BitVec.eq_of_getLsbD_eq; intro i h
    have a := congrArg (·.getLsbD (i - 12)) hc
    have b := congrArg (·.getLsbD i) hp
    have c := congrArg (·.getLsbD i) hn
    simp only [fieldClass, fieldN, BitVec.getLsbD_extractLsb'] at a b c
    clear hp
    interval_cases i <;> simp_all

/-- Mask 0xF0FF tests the class and the bottom byte. -/
theorem and_byteMask (w p : Word) (hp : p &&& 0x0F00#16 = 0#16) :
    (w &&& 0xF0FF#16 == p) = (fieldClass w == fieldClass p && fieldNN w == fieldNN p) := by
  rw [Bool.eq_iff_iff, Bool.and_eq_true, beq_iff_eq, beq_iff_eq, beq_iff_eq]
  constructor
  · rintro rfl
    constructor
    · apply BitVec.eq_of_getLsbD_eq; intro i h
      interval_cases i <;> simp [fieldClass]
    · apply BitVec.eq_of_getLsbD_eq; intro i h
      interval_cases i <;> simp [fieldNN]
  · rintro ⟨hc, hn⟩
    apply BitVec.eq_of_getLsbD_eq; intro i h
    have a := congrArg (·.getLsbD (i - 12)) hc
    have b := congrArg (·.getLsbD i) hp
    have c := congrArg (·.getLsbD i) hn
    simp only [fieldClass, fieldNN, BitVec.getLsbD_extractLsb'] at a b c
    clear hp
    interval_cases i <;> simp_all

/-- Mask 0xFFFF tests the whole word: its four fields. -/
theorem and_wordMask (w p : Word) : (w &&& 0xFFFF#16 == p) =
    (fieldClass w == fieldClass p && fieldX w == fieldX p && fieldY w == fieldY p && fieldN w == fieldN p) := by
  rw [show (0xFFFF#16 : Word) = BitVec.allOnes 16 by decide, BitVec.and_allOnes, Bool.eq_iff_iff]
  simp only [Bool.and_eq_true, beq_iff_eq]
  exact ⟨fun h => by simp [h], fun ⟨⟨⟨h1, h2⟩, h3⟩, h4⟩ => word_ext h1 h2 h3 h4⟩

/-- The word of two bytes gives them back (R51 `20_memory.md`). -/
@[simp] theorem highByte_wordOfBytes (hi lo : Byte) : highByte (wordOfBytes hi lo) = hi := by
  apply BitVec.eq_of_getLsbD_eq; intro i h
  interval_cases i <;> simp [highByte, wordOfBytes]

@[simp] theorem lowByte_wordOfBytes (hi lo : Byte) : lowByte (wordOfBytes hi lo) = lo := by
  apply BitVec.eq_of_getLsbD_eq; intro i h
  interval_cases i <;> simp [lowByte, wordOfBytes]

@[simp] theorem wordOfBytes_highByte_lowByte (w : Word) : wordOfBytes (highByte w) (lowByte w) = w := by
  apply BitVec.eq_of_getLsbD_eq; intro i h
  interval_cases i <;> simp [highByte, lowByte, wordOfBytes]

end Sys2Proof
end

