-- ==== Sys2Proof/Laws/Memory.lean ====
section
/-! SUPPORT. What the memory operations do: a read after a write, at the same place and elsewhere, one byte
and a byte string; and that every store inside the address space keeps the canonical form. -/

namespace Sys2Proof.Machine

theorem Memory.read_cons (b : Nat) (v : Byte) (m : Memory) (a : Nat) :
    Memory.read ((b, v) :: m) a = if a = b then v else Memory.read m a := rfl

/-- Below the first address of a canonical memory every address reads as after reset. -/
theorem Memory.read_below {lo : Nat} {m : Memory} (h : Memory.wfFrom lo m) {a : Nat} (ha : a < lo) :
    m.read a = Memory.resetByte a := by
  induction m generalizing lo with
  | nil => rfl
  | cons c m ih =>
    obtain ⟨b, v⟩ := c
    simp only [Memory.wfFrom, Bool.and_eq_true, decide_eq_true_eq] at h
    rw [Memory.read_cons, if_neg (by omega), ih h.2 (by omega)]

theorem Memory.wfFrom_mono {lo lo' : Nat} {m : Memory} (h : Memory.wfFrom lo m) (hl : lo' ≤ lo) :
    Memory.wfFrom lo' m := by
  cases m with
  | nil => rfl
  | cons c m =>
    simp only [Memory.wfFrom, Bool.and_eq_true, decide_eq_true_eq] at h ⊢
    exact ⟨⟨⟨by omega, h.1.1.2⟩, h.1.2⟩, h.2⟩

/-- A store at or above `lo`, inside the address space, keeps the canonical form from `lo` up. -/
theorem Memory.wfFrom_write {lo : Nat} {m : Memory} (h : Memory.wfFrom lo m) {a : Nat} (v : Byte)
    (hlo : lo ≤ a) (ha : a < 4096) : Memory.wfFrom lo (m.write a v) := by
  induction m generalizing lo with
  | nil =>
    rw [Memory.write]
    split
    · rfl
    · simp [Memory.wfFrom, *]
  | cons c m ih =>
    obtain ⟨b, w⟩ := c
    simp only [Memory.wfFrom, Bool.and_eq_true, decide_eq_true_eq] at h
    obtain ⟨⟨⟨h1, h2⟩, h3⟩, h4⟩ := h
    rw [Memory.write]
    split
    · split
      · simp [Memory.wfFrom, *]
      · simp [Memory.wfFrom, *]
    · split
      · split
        · exact Memory.wfFrom_mono h4 (by omega)
        · simp_all [Memory.wfFrom]
      · simp only [Memory.wfFrom, Bool.and_eq_true, decide_eq_true_eq]
        exact ⟨⟨⟨h1, h2⟩, h3⟩, ih h4 (by omega)⟩

/-- Every store inside the address space keeps the canonical form. -/
theorem Memory.wf_write {m : Memory} (h : m.wf) {a : Nat} (v : Byte) (ha : a < 4096) :
    (m.write a v).wf := Memory.wfFrom_write h v (Nat.zero_le a) ha

/-- A read after a store of one byte, in a canonical memory from `lo` up. -/
theorem Memory.read_write_from {lo : Nat} {m : Memory} (h : Memory.wfFrom lo m) (a b : Nat) (v : Byte) :
    (m.write a v).read b = if b = a then v else m.read b := by
  induction m generalizing lo with
  | nil => rw [Memory.write]; split <;> simp_all [Memory.read]
  | cons c m ih =>
    obtain ⟨k, w⟩ := c
    simp only [Memory.wfFrom, Bool.and_eq_true, decide_eq_true_eq] at h
    obtain ⟨⟨⟨h1, h2⟩, h3⟩, h4⟩ := h
    rw [Memory.write]
    split
    · split
      · by_cases e : b = a
        · subst e
          rw [if_pos rfl, Memory.read_cons, if_neg (by omega), Memory.read_below h4 (by omega)]
          exact (‹v = _›).symm
        · simp [e]
      · simp [Memory.read_cons]
    · split
      · subst a
        split
        · by_cases e : b = k
          · subst e; rw [if_pos rfl, Memory.read_below h4 (by omega)]; exact (‹v = _›).symm
          · simp [e, Memory.read_cons]
        · simp only [Memory.read_cons]; split <;> rfl
      · simp only [Memory.read_cons, ih h4]
        split
        · rw [if_neg (by omega)]
        · rfl

/-- A read after a store of one byte. -/
theorem Memory.read_write {m : Memory} (h : m.wf) (a b : Nat) (v : Byte) :
    (m.write a v).read b = if b = a then v else m.read b := Memory.read_write_from h a b v

/-- Storing a byte string inside the address space keeps the canonical form. -/
theorem Memory.wf_writeBytes {m : Memory} (h : m.wf) {a : Nat} {bs : List Byte}
    (hr : a + bs.length ≤ 4096) : (m.writeBytes a bs).wf := by
  induction bs generalizing m a with
  | nil => exact h
  | cons b bs ih =>
    simp only [List.length_cons] at hr
    exact ih (Memory.wf_write h b (by omega)) (by omega)

/-- A read after storing a byte string: its bytes inside, the old byte outside. -/
theorem Memory.read_writeBytes {m : Memory} (h : m.wf) {a : Nat} {bs : List Byte}
    (hr : a + bs.length ≤ 4096) (b : Nat) :
    (m.writeBytes a bs).read b = if hb : a ≤ b ∧ b - a < bs.length then bs[b - a]'hb.2 else m.read b := by
  induction bs generalizing m a with
  | nil => simp [Memory.writeBytes]
  | cons c bs ih =>
    simp only [List.length_cons] at hr
    rw [Memory.writeBytes, ih (Memory.wf_write h c (by omega)) (by omega), Memory.read_write h]
    by_cases h1 : a + 1 ≤ b
    · have e : b - a = (b - (a + 1)) + 1 := by omega
      by_cases h2 : b - (a + 1) < bs.length
      · rw [dif_pos ⟨h1, h2⟩, dif_pos ⟨by omega, by simp; omega⟩]
        simp [e]
      · rw [dif_neg (by omega), dif_neg (by simp; omega), if_neg (by omega)]
    · rw [dif_neg (by omega)]
      by_cases h2 : b = a
      · subst h2; simp
      · rw [dif_neg (by omega), if_neg h2]

@[simp] theorem Memory.length_readBytes (m : Memory) (a n : Nat) : (m.readBytes a n).length = n := by
  induction n generalizing a with
  | zero => rfl
  | succ n ih => simp [Memory.readBytes, ih]

/-- Entry `k` of the bytes read from `a` on is the byte at `a + k`. -/
theorem Memory.getElem_readBytes (m : Memory) (a n k : Nat) (h : k < (m.readBytes a n).length) :
    (m.readBytes a n)[k] = m.read (a + k) := by
  induction n generalizing a k with
  | zero => simp at h
  | succ n ih =>
    cases k with
    | zero => rfl
    | succ k =>
      simp only [Memory.readBytes, List.getElem_cons_succ]
      rw [ih]
      congr 1; omega

end Sys2Proof.Machine
end

