-- ==== Sys2Proof/Laws/Ops.lean ====
section
/-! SUPPORT. What each shared operation can do, said once: taking a fault, the range check, the key
search, the return stack, one step. -/

namespace Sys2Proof.Machine

/-- Zero extension of a byte keeps its value. -/
theorem toNat_zextByte (b : Byte) : (zextByte b).toNat = b.toNat := by
  simp only [zextByte, BitVec.toNat_setWidth]; omega

/-- Zero extension of a 12-bit literal keeps its value. -/
theorem toNat_zextAddr (a : Addr) : (zextAddr a).toNat = a.toNat := by
  simp only [zextAddr, BitVec.toNat_setWidth]; omega

/-- Taking a fault answers the state with only `status` changed. -/
theorem raise_eq_next (c : Cause) (info : Word) (s t : State) :
    raise c info s = .next t ↔ t = s.setStatus (.faulted c info) := by
  simp [raise, eq_comm]

/-- The range check holds of an empty range and of a range that ends inside memory. -/
theorem rangeInMemory_iff (i : Word) (n : Nat) : rangeInMemory i n = true ↔ n = 0 ∨ i.toNat + n ≤ 4096 := by
  simp [rangeInMemory]

/-- The range check: the access goes on inside memory, and faults outside. -/
theorem withRange_cases (n : Nat) (s done : State) :
    (n = 0 ∨ s.i.toNat + n ≤ 4096) ∧ withRange n s done = .next done ∨
    (n ≠ 0 ∧ 4096 < s.i.toNat + n) ∧
      withRange n s done = .next (s.setStatus (.faulted .memOutOfRange (lowestOutOfRange s.i))) := by
  by_cases h : n = 0 ∨ s.i.toNat + n ≤ 4096
  · exact .inl ⟨h, if_pos ((rangeInMemory_iff s.i n).mpr h)⟩
  · exact .inr ⟨by omega, if_neg (fun hr => h ((rangeInMemory_iff s.i n).mp hr))⟩

/-- `lowestOutOfRange` is the larger of `I` and 0x1000. -/
theorem toNat_lowestOutOfRange (i : Word) : (lowestOutOfRange i).toNat = max i.toNat 0x1000 := by
  unfold lowestOutOfRange
  split
  · simp; omega
  · omega

/-- The key search fails exactly when every key is up. -/
theorem lowestDown_eq_none (s : State) : lowestDown s.keys = none ↔ ∀ k, k < 16 → s.keyDown k = false := by
  simp only [lowestDown, List.findIdx?_eq_none_iff, State.keyDown, Vector.mem_toList_iff]
  constructor
  · intro h k hk
    have := h s.keys[k] (Vector.getElem_mem hk)
    simpa [hk] using this
  · intro h b hb
    obtain ⟨k, hk, rfl⟩ := Vector.mem_iff_getElem.mp hb
    simpa [hk] using h k hk

/-- The key search answers the lowest key that is down. -/
theorem lowestDown_eq_some (s : State) (k : Nat) : lowestDown s.keys = some k ↔
    k < 16 ∧ s.keyDown k = true ∧ ∀ j, j < k → s.keyDown j = false := by
  simp only [lowestDown, List.findIdx?_eq_some_iff_getElem, State.keyDown]
  constructor
  · rintro ⟨hk, h1, h2⟩
    have hk' : k < 16 := by simpa using hk
    refine ⟨hk', by simpa [hk'] using h1, fun j hj => ?_⟩
    have := h2 j hj
    simpa [show j < 16 by omega] using this
  · rintro ⟨hk, h1, h2⟩
    refine ⟨by simpa using hk, by simpa [hk] using h1, fun j hj => ?_⟩
    have := h2 j hj
    simpa [show j < 16 by omega] using this

/-- The key a `SETKEY` wrote reads as written, every other key as before. -/
theorem State.keyDown_writeKey (s : State) (k j : Nat) (b : Bool) (hk : k < 16) :
    (s.writeKey k b).keyDown j = if j = k then b else s.keyDown j := by
  unfold State.keyDown
  rw [State.writeKey_keys]
  by_cases h : j = k
  · subst h; simp [hk]
  · simp [h, Ne.symm h]

/-- Below `SP = 16` a push writes the entry at `SP` and counts one more. -/
theorem State.push_sp_val (s : State) (a : Word) (h : s.sp.val < 16) : (s.push a).sp.val = s.sp.val + 1 := by
  simp; omega

/-- The entry a push wrote is the one a following pop frees. -/
theorem State.atStackPointer_pop_push (s : State) (a : Word) (h : s.sp.val < 16) :
    (s.push a).pop.atStackPointer = a := by
  have h2 : min (s.sp.val + 1) 16 - 1 = s.sp.val := by omega
  simp only [State.atStackPointer, State.pop_sp, State.pop_stack, State.push_sp, State.push_stack, h2]
  simp [h]

/-- A CYCLE is idle outside Running, faults on a fetch above memory, and else executes the decoded instruction. -/
theorem runCycle_cases (execute : Instr → State → Result) (s : State) :
    (s.status ≠ .running ∧ runCycle execute s = .next s) ∨
    (s.status = .running ∧ 0xFFE < s.pc.toNat ∧
      runCycle execute s = .next (s.setStatus (.faulted .fetchOutOfRange s.pc))) ∨
    (s.status = .running ∧ s.pc.toNat ≤ 0xFFE ∧ runCycle execute s = execute (decodeWord (fetchWord s)) s) := by
  unfold runCycle
  cases h : s.status with
  | running =>
    by_cases hp : 0xFFE < s.pc.toNat
    · exact .inr (.inl ⟨rfl, hp, by simp [hp, raise]⟩)
    · exact .inr (.inr ⟨rfl, by omega, by simp [hp]⟩)
  | awaitingKey t => exact .inl ⟨by simp, rfl⟩
  | faulted c info => exact .inl ⟨by simp, rfl⟩

/-- `step` is such a CYCLE, of `exec`. -/
theorem step_cases (s : State) :
    (s.status ≠ .running ∧ step s = .next s) ∨
    (s.status = .running ∧ 0xFFE < s.pc.toNat ∧
      step s = .next (s.setStatus (.faulted .fetchOutOfRange s.pc))) ∨
    (s.status = .running ∧ s.pc.toNat ≤ 0xFFE ∧ step s = exec (decodeWord (fetchWord s)) s) :=
  runCycle_cases exec s

/-- `CYCLE(rand)` is such a CYCLE too, with the byte it was given. -/
theorem cycleWith_cases (rand : Byte) (s : State) :
    (s.status ≠ .running ∧ cycleWith rand s = .next s) ∨
    (s.status = .running ∧ 0xFFE < s.pc.toNat ∧
      cycleWith rand s = .next (s.setStatus (.faulted .fetchOutOfRange s.pc))) ∨
    (s.status = .running ∧ s.pc.toNat ≤ 0xFFE ∧ cycleWith rand s = execWith rand (decodeWord (fetchWord s)) s) :=
  runCycle_cases (execWith rand) s

/-- An instruction given a byte: RND takes it, and every other instruction is `exec`. -/
theorem execWith_cases (rand : Byte) (i : Instr) (s : State) :
    (∃ x nn, i = .rnd x nn ∧ execWith rand i s = .next (s.writeV x (rand &&& nn)).advance) ∨
    ((∀ x nn, i ≠ .rnd x nn) ∧ execWith rand i s = exec i s) := by
  cases i
  case rnd x nn => exact .inl ⟨x, nn, rfl, rfl⟩
  all_goals exact .inr ⟨fun _ _ h => (by cases h), rfl⟩

end Sys2Proof.Machine
end

