-- ==== Sys2Proof/Laws/HostOps.lean ====
section
/-! SUPPORT. What each host operation can do, said once (section 2 of `60_exceptions.md`). -/

namespace Sys2Proof.Machine

@[simp] theorem tickTimers_eq (s : State) : tickTimers s = (s.setDelay (decay s.dt)).setSound (decay s.st) := rfl

@[simp] theorem ackRedraw_eq (s : State) : ackRedraw s = s.setRedraw false := rfl

@[simp] theorem ackSound_eq (s : State) : ackSound s = s.setPending false := rfl

/-- A timer after a tick holds one less, floor zero (R191). -/
theorem toNat_decay (b : Byte) : (decay b).toNat = b.toNat - 1 := by
  unfold decay
  split
  · simp [*]
  · bv_omega

/-- LOAD answers a next state exactly for a program that fits, and then stores it. -/
theorem loadProgram_eq_next (bytes : List Byte) (s t : State) : loadProgram bytes s = .next t ↔
    bytes.length ≤ 3584 ∧ t = s.setMem (s.mem.writeBytes 0x200 bytes) := by
  unfold loadProgram
  split <;> simp_all [eq_comm]

/-- SETKEY answers a next state exactly for a key of the keypad: the completion of the wait, or the key
state alone. -/
theorem setKey_eq_next (k : Nat) (pressed : Bool) (s t : State) : setKey k pressed s = .next t ↔
    k < 16 ∧
    ((∃ x, s.status = .awaitingKey x ∧ pressed = true ∧
        t = (((s.writeKey k true).writeV x (BitVec.ofNat 8 k)).setStatus .running).advance) ∨
      (((∀ x, s.status ≠ .awaitingKey x) ∨ pressed = false) ∧ t = s.writeKey k pressed)) := by
  unfold setKey
  by_cases h : 15 < k
  · simp [h, show ¬ k < 16 by omega]
  · cases hs : s.status <;> cases pressed <;> simp [h, show k < 16 by omega, eq_comm]

/-- Loading a program that fits keeps the canonical form of memory. -/
theorem wf_loadProgram {bytes : List Byte} {s t : State} (h : s.mem.wf) (e : loadProgram bytes s = .next t) :
    t.mem.wf := by
  obtain ⟨hl, rfl⟩ := (loadProgram_eq_next bytes s t).mp e
  exact Memory.wf_writeBytes h (by omega)

/-! ### The end of a run -/

@[simp] theorem isFaulted_eq_false (s : State) : s.isFaulted = false ↔ s.notFaulted := by
  unfold State.isFaulted State.notFaulted
  cases s.status <;> simp

/-- A run has ended exactly where its predicate holds of a state that is not faulted (R183). -/
theorem runEnded_iff (endOfRun : EndOfRun) (s : State) :
    runEnded endOfRun s = true ↔ s.notFaulted ∧ endOfRun s.toCoreState = true := by
  simp [runEnded]

/-- What a run up to its end can do: it performs a first part of the operations, and stops where the run has ended or
the operations have. -/
theorem runUntil_eq_next {endOfRun : EndOfRun} {ops : List Operation} {s t : State}
    (h : runUntil endOfRun ops s = .next t) :
    ∃ taken rest, ops = taken ++ rest ∧ performAll taken s = .next t ∧ (runEnded endOfRun t = true ∨ rest = []) := by
  induction ops generalizing s with
  | nil => exact ⟨[], [], rfl, h, .inr rfl⟩
  | cons op ops ih =>
    rw [runUntil] at h
    split at h
    · next he => injection h with h; subst h; exact ⟨[], op :: ops, rfl, rfl, .inl he⟩
    · split at h
      · next u hu =>
        obtain ⟨taken, rest, rfl, ht, hr⟩ := ih h
        exact ⟨op :: taken, rest, rfl, by simp only [performAll, hu, ht], hr⟩
      · cases h
      · cases h

/-- With a predicate that never holds, a run up to its end is the whole run: the core has no end of its own (R217). -/
theorem runUntil_never (ops : List Operation) (s : State) : runUntil (fun _ => false) ops s = performAll ops s := by
  induction ops generalizing s with
  | nil => rfl
  | cons op ops ih =>
    rw [runUntil, performAll, if_neg (by simp [runEnded])]
    split <;> simp [*]

end Sys2Proof.Machine
end

