-- ==== Sys2Proof/Laws/PerInstr.lean ====
section
/-! SUPPORT. Statements made per instruction. `SelectsOwnRow` (R75, R81 `30_encoding.md`): an instruction's
word is selected by the row of the opcode map that carries its number, and by no other row. -/

namespace Sys2Proof

/-- The word of a well-formed instruction is selected by its own row of R75 and by no other; the word of
a no-op (row 35) by none. -/
def Laws.SelectsOwnRow.Statement (i : Instr) : Prop :=
  i.wellFormed = true → ∀ r ∈ opcodeRows, r.selects (encode i) = decide (r.number = i.rowNumber)

/-- It is enough to decide the test of each row, in the two halves of the map. -/
theorem Laws.SelectsOwnRow.of_fields {i : Instr}
    (h : (∀ r ∈ opcodeRowsLow, r.selects (encode i) = decide (r.number = i.rowNumber)) ∧
      ∀ r ∈ opcodeRowsHigh, r.selects (encode i) = decide (r.number = i.rowNumber)) :
    Laws.SelectsOwnRow.Statement i := by
  intro _ r hr
  rcases List.mem_append.mp hr with hr | hr
  · exact h.1 r hr
  · exact h.2 r hr

theorem Laws.SelectsOwnRow.cls : Statement .cls := by
  apply of_fields
  simp [opcodeRowsLow, opcodeRowsHigh, OpcodeRow.selects, encode, Instr.rowNumber]

theorem Laws.SelectsOwnRow.ret : Statement .ret := by
  apply of_fields
  simp [opcodeRowsLow, opcodeRowsHigh, OpcodeRow.selects, encode, Instr.rowNumber]

theorem Laws.SelectsOwnRow.jp (nnn : Addr) : Statement (.jp nnn) := by
  apply of_fields
  simp [opcodeRowsLow, opcodeRowsHigh, OpcodeRow.selects, encode, Instr.rowNumber, and_classMask, and_nibbleMask,
    and_byteMask, and_wordMask]
  simp [fieldClass, fieldN, fieldNN, fieldX, fieldY]

theorem Laws.SelectsOwnRow.call (nnn : Addr) : Statement (.call nnn) := by
  apply of_fields
  simp [opcodeRowsLow, opcodeRowsHigh, OpcodeRow.selects, encode, Instr.rowNumber, and_classMask, and_nibbleMask,
    and_byteMask, and_wordMask]
  simp [fieldClass, fieldN, fieldNN, fieldX, fieldY]

theorem Laws.SelectsOwnRow.seImm (x : RegIdx) (nn : Byte) : Statement (.seImm x nn) := by
  apply of_fields
  simp [opcodeRowsLow, opcodeRowsHigh, OpcodeRow.selects, encode, Instr.rowNumber, and_classMask, and_nibbleMask,
    and_byteMask, and_wordMask]
  simp [fieldClass, fieldN, fieldNN, fieldX, fieldY]

theorem Laws.SelectsOwnRow.sneImm (x : RegIdx) (nn : Byte) : Statement (.sneImm x nn) := by
  apply of_fields
  simp [opcodeRowsLow, opcodeRowsHigh, OpcodeRow.selects, encode, Instr.rowNumber, and_classMask, and_nibbleMask,
    and_byteMask, and_wordMask]
  simp [fieldClass, fieldN, fieldNN, fieldX, fieldY]

theorem Laws.SelectsOwnRow.seReg (x : RegIdx) (y : RegIdx) : Statement (.seReg x y) := by
  apply of_fields
  simp [opcodeRowsLow, opcodeRowsHigh, OpcodeRow.selects, encode, Instr.rowNumber, and_classMask, and_nibbleMask,
    and_byteMask, and_wordMask]
  simp [fieldClass, fieldN, fieldNN, fieldX, fieldY]

theorem Laws.SelectsOwnRow.ldImm (x : RegIdx) (nn : Byte) : Statement (.ldImm x nn) := by
  apply of_fields
  simp [opcodeRowsLow, opcodeRowsHigh, OpcodeRow.selects, encode, Instr.rowNumber, and_classMask, and_nibbleMask,
    and_byteMask, and_wordMask]
  simp [fieldClass, fieldN, fieldNN, fieldX, fieldY]

theorem Laws.SelectsOwnRow.addImm (x : RegIdx) (nn : Byte) : Statement (.addImm x nn) := by
  apply of_fields
  simp [opcodeRowsLow, opcodeRowsHigh, OpcodeRow.selects, encode, Instr.rowNumber, and_classMask, and_nibbleMask,
    and_byteMask, and_wordMask]
  simp [fieldClass, fieldN, fieldNN, fieldX, fieldY]

theorem Laws.SelectsOwnRow.ldReg (x : RegIdx) (y : RegIdx) : Statement (.ldReg x y) := by
  apply of_fields
  simp [opcodeRowsLow, opcodeRowsHigh, OpcodeRow.selects, encode, Instr.rowNumber, and_classMask, and_nibbleMask,
    and_byteMask, and_wordMask]
  simp [fieldClass, fieldN, fieldNN, fieldX, fieldY]

theorem Laws.SelectsOwnRow.orReg (x : RegIdx) (y : RegIdx) : Statement (.orReg x y) := by
  apply of_fields
  simp [opcodeRowsLow, opcodeRowsHigh, OpcodeRow.selects, encode, Instr.rowNumber, and_classMask, and_nibbleMask,
    and_byteMask, and_wordMask]
  simp [fieldClass, fieldN, fieldNN, fieldX, fieldY]

theorem Laws.SelectsOwnRow.andReg (x : RegIdx) (y : RegIdx) : Statement (.andReg x y) := by
  apply of_fields
  simp [opcodeRowsLow, opcodeRowsHigh, OpcodeRow.selects, encode, Instr.rowNumber, and_classMask, and_nibbleMask,
    and_byteMask, and_wordMask]
  simp [fieldClass, fieldN, fieldNN, fieldX, fieldY]

theorem Laws.SelectsOwnRow.xorReg (x : RegIdx) (y : RegIdx) : Statement (.xorReg x y) := by
  apply of_fields
  simp [opcodeRowsLow, opcodeRowsHigh, OpcodeRow.selects, encode, Instr.rowNumber, and_classMask, and_nibbleMask,
    and_byteMask, and_wordMask]
  simp [fieldClass, fieldN, fieldNN, fieldX, fieldY]

theorem Laws.SelectsOwnRow.addReg (x : RegIdx) (y : RegIdx) : Statement (.addReg x y) := by
  apply of_fields
  simp [opcodeRowsLow, opcodeRowsHigh, OpcodeRow.selects, encode, Instr.rowNumber, and_classMask, and_nibbleMask,
    and_byteMask, and_wordMask]
  simp [fieldClass, fieldN, fieldNN, fieldX, fieldY]

theorem Laws.SelectsOwnRow.sub (x : RegIdx) (y : RegIdx) : Statement (.sub x y) := by
  apply of_fields
  simp [opcodeRowsLow, opcodeRowsHigh, OpcodeRow.selects, encode, Instr.rowNumber, and_classMask, and_nibbleMask,
    and_byteMask, and_wordMask]
  simp [fieldClass, fieldN, fieldNN, fieldX, fieldY]

theorem Laws.SelectsOwnRow.shr (x : RegIdx) (y : RegIdx) : Statement (.shr x y) := by
  apply of_fields
  simp [opcodeRowsLow, opcodeRowsHigh, OpcodeRow.selects, encode, Instr.rowNumber, and_classMask, and_nibbleMask,
    and_byteMask, and_wordMask]
  simp [fieldClass, fieldN, fieldNN, fieldX, fieldY]

theorem Laws.SelectsOwnRow.subn (x : RegIdx) (y : RegIdx) : Statement (.subn x y) := by
  apply of_fields
  simp [opcodeRowsLow, opcodeRowsHigh, OpcodeRow.selects, encode, Instr.rowNumber, and_classMask, and_nibbleMask,
    and_byteMask, and_wordMask]
  simp [fieldClass, fieldN, fieldNN, fieldX, fieldY]

theorem Laws.SelectsOwnRow.shl (x : RegIdx) (y : RegIdx) : Statement (.shl x y) := by
  apply of_fields
  simp [opcodeRowsLow, opcodeRowsHigh, OpcodeRow.selects, encode, Instr.rowNumber, and_classMask, and_nibbleMask,
    and_byteMask, and_wordMask]
  simp [fieldClass, fieldN, fieldNN, fieldX, fieldY]

theorem Laws.SelectsOwnRow.sneReg (x : RegIdx) (y : RegIdx) : Statement (.sneReg x y) := by
  apply of_fields
  simp [opcodeRowsLow, opcodeRowsHigh, OpcodeRow.selects, encode, Instr.rowNumber, and_classMask, and_nibbleMask,
    and_byteMask, and_wordMask]
  simp [fieldClass, fieldN, fieldNN, fieldX, fieldY]

theorem Laws.SelectsOwnRow.ldI (nnn : Addr) : Statement (.ldI nnn) := by
  apply of_fields
  simp [opcodeRowsLow, opcodeRowsHigh, OpcodeRow.selects, encode, Instr.rowNumber, and_classMask, and_nibbleMask,
    and_byteMask, and_wordMask]
  simp [fieldClass, fieldN, fieldNN, fieldX, fieldY]

theorem Laws.SelectsOwnRow.jpV0 (nnn : Addr) : Statement (.jpV0 nnn) := by
  apply of_fields
  simp [opcodeRowsLow, opcodeRowsHigh, OpcodeRow.selects, encode, Instr.rowNumber, and_classMask, and_nibbleMask,
    and_byteMask, and_wordMask]
  simp [fieldClass, fieldN, fieldNN, fieldX, fieldY]

theorem Laws.SelectsOwnRow.rnd (x : RegIdx) (nn : Byte) : Statement (.rnd x nn) := by
  apply of_fields
  simp [opcodeRowsLow, opcodeRowsHigh, OpcodeRow.selects, encode, Instr.rowNumber, and_classMask, and_nibbleMask,
    and_byteMask, and_wordMask]
  simp [fieldClass, fieldN, fieldNN, fieldX, fieldY]

theorem Laws.SelectsOwnRow.drw (x : RegIdx) (y : RegIdx) (n : RowCount) : Statement (.drw x y n) := by
  apply of_fields
  simp [opcodeRowsLow, opcodeRowsHigh, OpcodeRow.selects, encode, Instr.rowNumber, and_classMask, and_nibbleMask,
    and_byteMask, and_wordMask]
  simp [fieldClass, fieldN, fieldNN, fieldX, fieldY]

theorem Laws.SelectsOwnRow.skp (x : RegIdx) : Statement (.skp x) := by
  apply of_fields
  simp [opcodeRowsLow, opcodeRowsHigh, OpcodeRow.selects, encode, Instr.rowNumber, and_classMask, and_nibbleMask,
    and_byteMask, and_wordMask]
  simp [fieldClass, fieldN, fieldNN, fieldX, fieldY]

theorem Laws.SelectsOwnRow.sknp (x : RegIdx) : Statement (.sknp x) := by
  apply of_fields
  simp [opcodeRowsLow, opcodeRowsHigh, OpcodeRow.selects, encode, Instr.rowNumber, and_classMask, and_nibbleMask,
    and_byteMask, and_wordMask]
  simp [fieldClass, fieldN, fieldNN, fieldX, fieldY]

theorem Laws.SelectsOwnRow.ldVxDt (x : RegIdx) : Statement (.ldVxDt x) := by
  apply of_fields
  simp [opcodeRowsLow, opcodeRowsHigh, OpcodeRow.selects, encode, Instr.rowNumber, and_classMask, and_nibbleMask,
    and_byteMask, and_wordMask]
  simp [fieldClass, fieldN, fieldNN, fieldX, fieldY]

theorem Laws.SelectsOwnRow.ldVxK (x : RegIdx) : Statement (.ldVxK x) := by
  apply of_fields
  simp [opcodeRowsLow, opcodeRowsHigh, OpcodeRow.selects, encode, Instr.rowNumber, and_classMask, and_nibbleMask,
    and_byteMask, and_wordMask]
  simp [fieldClass, fieldN, fieldNN, fieldX, fieldY]

theorem Laws.SelectsOwnRow.ldDtVx (x : RegIdx) : Statement (.ldDtVx x) := by
  apply of_fields
  simp [opcodeRowsLow, opcodeRowsHigh, OpcodeRow.selects, encode, Instr.rowNumber, and_classMask, and_nibbleMask,
    and_byteMask, and_wordMask]
  simp [fieldClass, fieldN, fieldNN, fieldX, fieldY]

theorem Laws.SelectsOwnRow.ldStVx (x : RegIdx) : Statement (.ldStVx x) := by
  apply of_fields
  simp [opcodeRowsLow, opcodeRowsHigh, OpcodeRow.selects, encode, Instr.rowNumber, and_classMask, and_nibbleMask,
    and_byteMask, and_wordMask]
  simp [fieldClass, fieldN, fieldNN, fieldX, fieldY]

theorem Laws.SelectsOwnRow.addI (x : RegIdx) : Statement (.addI x) := by
  apply of_fields
  simp [opcodeRowsLow, opcodeRowsHigh, OpcodeRow.selects, encode, Instr.rowNumber, and_classMask, and_nibbleMask,
    and_byteMask, and_wordMask]
  simp [fieldClass, fieldN, fieldNN, fieldX, fieldY]

theorem Laws.SelectsOwnRow.ldF (x : RegIdx) : Statement (.ldF x) := by
  apply of_fields
  simp [opcodeRowsLow, opcodeRowsHigh, OpcodeRow.selects, encode, Instr.rowNumber, and_classMask, and_nibbleMask,
    and_byteMask, and_wordMask]
  simp [fieldClass, fieldN, fieldNN, fieldX, fieldY]

theorem Laws.SelectsOwnRow.ldB (x : RegIdx) : Statement (.ldB x) := by
  apply of_fields
  simp [opcodeRowsLow, opcodeRowsHigh, OpcodeRow.selects, encode, Instr.rowNumber, and_classMask, and_nibbleMask,
    and_byteMask, and_wordMask]
  simp [fieldClass, fieldN, fieldNN, fieldX, fieldY]

theorem Laws.SelectsOwnRow.dump (x : RegIdx) : Statement (.dump x) := by
  apply of_fields
  simp [opcodeRowsLow, opcodeRowsHigh, OpcodeRow.selects, encode, Instr.rowNumber, and_classMask, and_nibbleMask,
    and_byteMask, and_wordMask]
  simp [fieldClass, fieldN, fieldNN, fieldX, fieldY]

theorem Laws.SelectsOwnRow.load (x : RegIdx) : Statement (.load x) := by
  apply of_fields
  simp [opcodeRowsLow, opcodeRowsHigh, OpcodeRow.selects, encode, Instr.rowNumber, and_classMask, and_nibbleMask,
    and_byteMask, and_wordMask]
  simp [fieldClass, fieldN, fieldNN, fieldX, fieldY]

/-- A well-formed no-op carries a word that no row selects, and every row's number is below 35. -/
theorem Laws.SelectsOwnRow.nop (w : Word) : Statement (.nop w) := by
  intro h r hr
  have hn : ∀ r ∈ opcodeRows, r.number ≠ 35 := by decide
  have hs := List.all_eq_true.mp h r hr
  simpa [encode, Instr.rowNumber, hn r hr] using hs

end Sys2Proof
end

