-- ==== Sys2Proof/Laws/Regs.lean ====
section
/-! SUPPORT. What the register operations do: reading after writing, the order of a flag-writing
instruction's two writes, the registers a dump reads and a load fills. -/

namespace Sys2Proof.Machine

@[simp] theorem State.readV_writeV (s : State) (r q : RegIdx) (b : Byte) :
    (s.writeV r b).readV q = if q = r then b else s.readV q := by
  simp [State.readV, State.writeV, State.setRegs, Vector.getElem_set, BitVec.toNat_inj, eq_comm]

@[simp] theorem State.readV_writeFlagged (s : State) (f : Bool) (x q : RegIdx) (b : Byte) :
    (s.writeFlagged f x b).readV q = if q = x then b else if q = flagReg then flagByte f else s.readV q := by
  simp [State.writeFlagged]

theorem State.readV_eq (s : State) (q : RegIdx) : s.readV q = s.v[q.toNat]'q.isLt := rfl

/-- Two states whose registers read alike have the same registers. -/
theorem State.regs_ext {s t : State} (h : ∀ q, s.readV q = t.readV q) : s.v = t.v := by
  apply Vector.ext
  intro k hk
  have := h (BitVec.ofNat 4 k)
  simpa [State.readV, Nat.mod_eq_of_lt hk] using this

@[simp] theorem State.length_lowRegs (s : State) (x : RegIdx) : (s.lowRegs x).length = x.toNat + 1 := by
  have := x.isLt
  simp [State.lowRegs]; omega

/-- Entry `k` of a dump's byte string is `V[k]`. -/
theorem State.getElem_lowRegs (s : State) (x q : RegIdx) (h : q.toNat < (s.lowRegs x).length) :
    (s.lowRegs x)[q.toNat] = s.readV q := by
  simp [State.lowRegs, State.readV]

/-- Filling from entry `k` on: the registers the byte string reaches take its bytes, the rest stay. -/
theorem getElem_fillRegs (v : Vector Byte 16) (k : Nat) (bs : List Byte) (j : Nat) (hj : j < 16) :
    (fillRegs v k bs)[j] = if h : k ≤ j ∧ j - k < bs.length then bs[j - k]'h.2 else v[j] := by
  induction bs generalizing v k with
  | nil => simp [fillRegs]
  | cons b bs ih =>
    rw [fillRegs, ih]
    by_cases h1 : k + 1 ≤ j
    · have e : j - k = (j - (k + 1)) + 1 := by omega
      by_cases h2 : j - (k + 1) < bs.length
      · rw [dif_pos ⟨h1, h2⟩, dif_pos ⟨by omega, by simp; omega⟩]
        simp [e]
      · rw [dif_neg (by omega), dif_neg (by simp; omega)]
        exact Vector.getElem_setIfInBounds_ne _ (by omega)
    · rw [dif_neg (by omega)]
      by_cases h2 : k = j
      · subst h2; simp
      · rw [dif_neg (by omega)]
        simp [h2]

end Sys2Proof.Machine
end

