-- ==== Sys2Proof/Tests/Slice0.lean ====
section
/-! SUPPORT. The model's own tests: ill-formed terms refused, a word of every constructor decoded, small one-step
tests with the expected values of spec/95_test_vectors.md (its ids TV-... and S1 to S11 stand in the docstrings), and
for every obligation with hypotheses a witness that meets them. -/

namespace Sys2Proof.Tests

open Sys2Proof Sys2Proof.Machine

/-! ### Helpers -/

/-- The state after INIT with the given register values and the given word where the next CYCLE fetches. -/
def regsAndWord (regs : List (RegIdx × Byte)) (w : Nat) : State :=
  (regs.foldl (fun s p => s.writeV p.1 p.2) State.reset).withFetchWord 16 w

/-- The next step answers a state that passes the check. -/
def stepGives (s : State) (check : State → Bool) : Bool :=
  match step s with
  | .next t => check t
  | .fault _ => false
  | .refused _ => false

/-- The operations, one after another, answer a state that passes the check. -/
def runGives (ops : List Operation) (s : State) (check : State → Bool) : Bool :=
  match performAll ops s with
  | .next t => check t
  | .fault _ => false
  | .refused _ => false

/-- The listed pixels are lit, or all dark. -/
def allPixels (b : Bool) (ps : List (Fin 64 × Fin 32)) (fb : FrameBuffer) : Bool :=
  ps.all fun p => pixelAt fb p.1 p.2 == b

/-- The reset state with these bytes stored from address `a` up. -/
def bytesAt (a : Nat) (bs : List Byte) (s : State) : State := s.setMem (s.mem.writeBytes a bs)

/-! ### Well-formedness: the one check, and a term it refuses -/

/-- R76: 0x00E0 is CLS, so a no-op that carries it is no instruction. -/
theorem test_wellFormed_refuses_defined_word : (Instr.nop 0x00E0#16).wellFormed = false := by decide

/-- R76: 8128 is an unmatched word. -/
theorem test_wellFormed_accepts_unmatched_word : (Instr.nop 0x8128#16).wellFormed = true := by decide

/-! ### Decoding: a word of every constructor, written out from the patterns of R75 -/

/-- Rows 1 and 2 (TV-dec-3, TV-dec-4). -/
theorem test_decode_system : decode [0x00, 0xE0] = .ok (.cls, []) ∧ decode [0x00, 0xEE] = .ok (.ret, []) := by decide

/-- Rows 3, 4, 21 (TV-dec-1 for 1NNN). -/
theorem test_decode_jumps :
    decode [0x12, 0x34] = .ok (.jp 0x234, []) ∧ decode [0x22, 0x0A] = .ok (.call 0x20A, []) ∧
    decode [0xBF, 0xFE] = .ok (.jpV0 0xFFE, []) := by decide

/-- Rows 5, 6, 7, 19 (TV-dec-2, TV-dec-8). -/
theorem test_decode_skips :
    decode [0x34, 0x12] = .ok (.seImm 4 0x12, []) ∧ decode [0x43, 0x2B] = .ok (.sneImm 3 0x2B, []) ∧
    decode [0x51, 0x20] = .ok (.seReg 1 2, []) ∧ decode [0x91, 0x20] = .ok (.sneReg 1 2, []) := by decide

/-- Rows 8, 9, 22. -/
theorem test_decode_constants :
    decode [0x6A, 0x7B] = .ok (.ldImm 0xA 0x7B, []) ∧ decode [0x72, 0x20] = .ok (.addImm 2 0x20, []) ∧
    decode [0xC3, 0x0F] = .ok (.rnd 3 0x0F, []) := by decide

/-- Rows 10 to 13. -/
theorem test_decode_logic :
    decode [0x83, 0x40] = .ok (.ldReg 3 4, []) ∧ decode [0x81, 0x21] = .ok (.orReg 1 2, []) ∧
    decode [0x81, 0x22] = .ok (.andReg 1 2, []) ∧ decode [0x81, 0x23] = .ok (.xorReg 1 2, []) := by decide

/-- Rows 14 to 18 (TV-dec-12). -/
theorem test_decode_arith :
    decode [0x80, 0x14] = .ok (.addReg 0 1, []) ∧ decode [0x80, 0x15] = .ok (.sub 0 1, []) ∧
    decode [0x85, 0x06] = .ok (.shr 5 0, []) ∧ decode [0x81, 0x27] = .ok (.subn 1 2, []) ∧
    decode [0x81, 0x2E] = .ok (.shl 1 2, []) := by decide

/-- Rows 20, 23 (TV-dec-20). -/
theorem test_decode_index_and_draw :
    decode [0xA2, 0xF0] = .ok (.ldI 0x2F0, []) ∧ decode [0xD1, 0x25] = .ok (.drw 1 2 5, []) := by decide

/-- Rows 24, 25, 27 (TV-dec-14, TV-dec-16). -/
theorem test_decode_keys :
    decode [0xE1, 0x9E] = .ok (.skp 1, []) ∧ decode [0xE1, 0xA1] = .ok (.sknp 1, []) ∧
    decode [0xF2, 0x0A] = .ok (.ldVxK 2, []) := by decide

/-- Rows 26, 28, 29. -/
theorem test_decode_timers :
    decode [0xF4, 0x07] = .ok (.ldVxDt 4, []) ∧ decode [0xF4, 0x15] = .ok (.ldDtVx 4, []) ∧
    decode [0xF0, 0x18] = .ok (.ldStVx 0, []) := by decide

/-- Rows 30 to 34 (TV-dec-19). -/
theorem test_decode_index_memory :
    decode [0xF1, 0x1E] = .ok (.addI 1, []) ∧ decode [0xF0, 0x29] = .ok (.ldF 0, []) ∧
    decode [0xF0, 0x33] = .ok (.ldB 0, []) ∧ decode [0xFF, 0x55] = .ok (.dump 0xF, []) ∧
    decode [0xF1, 0x65] = .ok (.load 1, []) := by decide

/-- The unmatched words of every class of R76 (TV-dec-5, 7, 9, 10, 11, 15, 17, 18). -/
theorem test_decode_unmatched :
    decode [0x00, 0xE1] = .ok (.nop 0x00E1, []) ∧ decode [0x01, 0x23] = .ok (.nop 0x0123, []) ∧
    decode [0x51, 0x21] = .ok (.nop 0x5121, []) ∧ decode [0x91, 0x2F] = .ok (.nop 0x912F, []) ∧
    decode [0x81, 0x28] = .ok (.nop 0x8128, []) ∧ decode [0xE1, 0x9F] = .ok (.nop 0xE19F, []) ∧
    decode [0xF1, 0x00] = .ok (.nop 0xF100, []) ∧ decode [0xF1, 0x75] = .ok (.nop 0xF175, []) := by decide

/-- One byte is no instruction; bytes after the word are handed back (R70). -/
theorem test_decode_lengths :
    decode [0x12] = .error .truncated ∧ decode [0x12, 0x34, 0x56] = .ok (.jp 0x234, [0x56]) := by decide

/-- The table numbers bit 0 as the word's least significant bit: 0x6A7B is `LD VA,0x7B`. -/
theorem test_decodeTableWord :
    decodeTableWord 16 0x6A7B = some (.ldImm 0xA 0x7B) ∧ decodeTableWord 16 0x00E0 = some .cls ∧
    decodeTableWord 17 0x00E0 = none := by decide

/-- R81's example: `DRW V1,V2,5` is 0xD125; `SHR V5` is 0x8506. -/
theorem test_encode : encode (.drw 1 2 5) = 0xD125#16 ∧ encode (.shr 5 0) = 0x8506#16 := by decide

/-! ### Fetch and the no-op -/

/-- TV-dec-22, first part: the last fetchable address. -/
theorem test_fetch_at_0xFFE :
    stepGives ((State.reset.setPc 0xFFE#16).withFetchWord 16 0x6A7B)
      (fun t => t.readV 0xA == 0x7B#8 && t.pc == 0x1000#16 && t.status == .running) = true := by decide

/-- TV-dec-21: the second byte is out of range. -/
theorem test_fetch_at_0xFFF :
    stepGives (State.reset.setPc 0xFFF#16)
      (fun t => t.status == .faulted .fetchOutOfRange 0x0FFF#16 && t.pc == 0xFFF#16) = true := by decide

/-- TV-dec-23: an odd address. -/
theorem test_fetch_odd :
    stepGives ((State.reset.setPc 0x301#16).withFetchWord 16 0x6205)
      (fun t => t.readV 2 == 0x05#8 && t.pc == 0x303#16) = true := by decide

/-- R95's example. -/
theorem test_nop : stepGives (State.reset.setPc 0x300#16) (fun t => t == State.reset.setPc 0x302#16) = true := by decide

/-! ### Control flow -/

/-- TV-ctl-2. -/
theorem test_jp : stepGives (regsAndWord [] 0x1FFF) (fun t => t.pc == 0xFFF#16) = true := by decide

/-- TV-ctl-16, TV-ctl-18: the X position selects no register. -/
theorem test_jpV0 :
    stepGives (regsAndWord [(0, 0x02#8), (3, 0x50#8)] 0xB300) (fun t => t.pc == 0x302#16) = true := by decide

/-- TV-ctl-17: not reduced modulo 4096. -/
theorem test_jpV0_above_memory :
    stepGives (regsAndWord [(0, 0xFF#8)] 0xBFFF) (fun t => t.pc == 0x10FE#16 && t.status == .running) = true := by decide

/-- TV-ctl-3: the call's own address is pushed. -/
theorem test_call :
    stepGives ((State.reset.setPc 0x204#16).withFetchWord 16 0x220A)
      (fun t => t.stack[0] == 0x204#16 && t.sp.val == 1 && t.pc == 0x20A#16) = true := by decide

/-- TV-ctl-4. -/
theorem test_call_overflow :
    stepGives (({ State.reset with sp := 16 }.setPc 0x300#16).withFetchWord 16 0x2400)
      (fun t => t.status == .faulted .stackOverflow 0x300#16 && t.sp.val == 16 && t.pc == 0x300#16) = true := by decide

/-- TV-ctl-5: the entry is retained. -/
theorem test_ret :
    stepGives (((State.reset.push 0x204#16).setPc 0x20C#16).withFetchWord 16 0x00EE)
      (fun t => t.sp.val == 0 && t.pc == 0x206#16 && t.stack[0] == 0x204#16) = true := by decide

/-- TV-ctl-6. -/
theorem test_ret_underflow :
    stepGives (regsAndWord [] 0x00EE) (fun t => t.status == .faulted .stackUnderflow 0x200#16) = true := by decide

/-- TV-ctl-7, TV-ctl-8. -/
theorem test_seImm :
    stepGives (regsAndWord [(3, 0x2A#8)] 0x332A) (fun t => t.pc == 0x204#16) = true ∧
    stepGives (regsAndWord [(3, 0x2A#8)] 0x332B) (fun t => t.pc == 0x202#16) = true := by decide

/-- TV-ctl-9, TV-ctl-10. -/
theorem test_sneImm :
    stepGives (regsAndWord [(3, 0x2A#8)] 0x432A) (fun t => t.pc == 0x202#16) = true ∧
    stepGives (regsAndWord [(3, 0x2A#8)] 0x432B) (fun t => t.pc == 0x204#16) = true := by decide

/-- TV-ctl-11, TV-ctl-12. -/
theorem test_seReg :
    stepGives (regsAndWord [(1, 7#8), (2, 7#8)] 0x5120) (fun t => t.pc == 0x204#16) = true ∧
    stepGives (regsAndWord [(1, 7#8), (2, 8#8)] 0x5120) (fun t => t.pc == 0x202#16) = true := by decide

/-- TV-ctl-14, TV-ctl-15. -/
theorem test_sneReg :
    stepGives (regsAndWord [(1, 7#8), (2, 8#8)] 0x9120) (fun t => t.pc == 0x204#16) = true ∧
    stepGives (regsAndWord [(1, 7#8), (2, 7#8)] 0x9120) (fun t => t.pc == 0x202#16) = true := by decide

/-! ### Registers and ALU -/

/-- TV-alu-51. -/
theorem test_ldImm : stepGives (regsAndWord [] 0x6A7B) (fun t => t.readV 0xA == 0x7B#8) = true := by decide

/-- TV-alu-50: a wrap without a flag. -/
theorem test_addImm :
    stepGives (regsAndWord [(2, 0xFF#8)] 0x7201) (fun t => t.readV 2 == 0x00#8 && t.readV 0xF == 0#8) = true := by decide

/-- TV-alu-34. -/
theorem test_ldReg : stepGives (regsAndWord [(4, 0x55#8)] 0x8340) (fun t => t.readV 3 == 0x55#8) = true := by decide

/-- TV-alu-31 to TV-alu-33: `VF` is kept. -/
theorem test_logic :
    stepGives (regsAndWord [(1, 0xF0#8), (2, 0x3C#8), (0xF, 7#8)] 0x8121)
      (fun t => t.readV 1 == 0xFC#8 && t.readV 0xF == 7#8) = true ∧
    stepGives (regsAndWord [(1, 0xF0#8), (2, 0x3C#8), (0xF, 7#8)] 0x8122)
      (fun t => t.readV 1 == 0x30#8 && t.readV 0xF == 7#8) = true ∧
    stepGives (regsAndWord [(1, 0xF0#8), (2, 0x3C#8), (0xF, 7#8)] 0x8123)
      (fun t => t.readV 1 == 0xCC#8 && t.readV 0xF == 7#8) = true := by decide

/-- TV-alu-4, TV-alu-44: the old `VF` is the operand, then takes the carry. -/
theorem test_addReg :
    stepGives (regsAndWord [(0, 0xFF#8), (1, 0x01#8)] 0x8014)
      (fun t => t.readV 0 == 0x00#8 && t.readV 0xF == 1#8) = true ∧
    stepGives (regsAndWord [(1, 0x01#8), (0xF, 0x01#8)] 0x81F4)
      (fun t => t.readV 1 == 0x02#8 && t.readV 0xF == 0#8) = true := by decide

/-- TV-alu-40: with X = 15 the result remains. -/
theorem test_addReg_into_flag :
    stepGives (regsAndWord [(0xF, 0xF0#8), (1, 0x20#8)] 0x8F14) (fun t => t.readV 0xF == 0x10#8) = true := by decide

/-- TV-alu-9, TV-alu-10. -/
theorem test_sub :
    stepGives (regsAndWord [(0, 0x11#8), (1, 0x12#8)] 0x8015)
      (fun t => t.readV 0 == 0xFF#8 && t.readV 0xF == 0#8) = true ∧
    stepGives (regsAndWord [] 0x8015) (fun t => t.readV 0 == 0x00#8 && t.readV 0xF == 1#8) = true := by decide

/-- TV-alu-41. -/
theorem test_sub_into_flag :
    stepGives (regsAndWord [(0xF, 0x05#8), (1, 0x07#8)] 0x8F15) (fun t => t.readV 0xF == 0xFE#8) = true := by decide

/-- TV-alu-23, TV-alu-42: Y is ignored; with X = 15 the result remains. -/
theorem test_shr :
    stepGives (regsAndWord [(5, 0x07#8), (2, 0x80#8)] 0x8526)
      (fun t => t.readV 5 == 0x03#8 && t.readV 0xF == 1#8 && t.readV 2 == 0x80#8) = true ∧
    stepGives (regsAndWord [(0xF, 0x02#8)] 0x8F06) (fun t => t.readV 0xF == 0x01#8) = true := by decide

/-- TV-alu-20, TV-alu-18. -/
theorem test_subn :
    stepGives (regsAndWord [(1, 0x05#8), (2, 0x09#8)] 0x8127)
      (fun t => t.readV 1 == 0x04#8 && t.readV 0xF == 1#8) = true ∧
    stepGives (regsAndWord [(1, 0x01#8)] 0x8127) (fun t => t.readV 1 == 0xFF#8 && t.readV 0xF == 0#8) = true := by decide

/-- TV-alu-27, TV-alu-43. -/
theorem test_shl :
    stepGives (regsAndWord [(3, 0xE0#8)] 0x830E) (fun t => t.readV 3 == 0xC0#8 && t.readV 0xF == 1#8) = true ∧
    stepGives (regsAndWord [(0xF, 0x81#8)] 0x8F0E) (fun t => t.readV 0xF == 0x02#8) = true := by decide

/-- TV-alu-52, TV-alu-54: the byte is an input of the CYCLE. -/
theorem test_cycle_with_byte :
    runGives [.cycle 0xB7#8] (regsAndWord [] 0xC30F) (fun t => t.readV 3 == 0x07#8 && t.pc == 0x202#16) = true ∧
    runGives [.cycle 0xB7#8] (regsAndWord [] 0xC3FF) (fun t => t.readV 3 == 0xB7#8) = true := by decide

/-- TV-alu-53, TV-alu-55: a mask of 0 gives 0, any other mask the drawn byte under it. -/
theorem test_rnd (s : State) :
    (∃ t, exec (.rnd 3 0x00#8) s = .next t ∧ t.readV 3 = 0x00#8) ∧
    (∃ t, exec (.rnd 3 0xAA#8) s = .next t ∧ t.readV 3 = Config.randomByte s.draws &&& 0xAA#8) :=
  ⟨⟨_, rfl, by simp⟩, ⟨_, rfl, by simp⟩⟩

/-! ### Index register and memory -/

/-- TV-mem-1. -/
theorem test_ldI : stepGives (regsAndWord [] 0xA2F0) (fun t => t.i == 0x2F0#16) = true := by decide

/-- TV-mem-2, TV-mem-3. -/
theorem test_addI :
    stepGives ((regsAndWord [(1, 0x05#8)] 0xF11E).setIndex 0xFFE#16)
      (fun t => t.i == 0x1003#16 && t.readV 0xF == 0#8) = true ∧
    stepGives ((regsAndWord [(1, 0x02#8)] 0xF11E).setIndex 0xFFFF#16) (fun t => t.i == 0x0001#16) = true := by decide

/-- TV-mem-6, TV-mem-7: no masking. -/
theorem test_ldF :
    stepGives (regsAndWord [(0, 0x10#8)] 0xF029) (fun t => t.i == 0x0050#16) = true ∧
    stepGives (regsAndWord [(0, 0xFF#8)] 0xF029) (fun t => t.i == 0x04FB#16) = true := by decide

/-- TV-mem-14: the last legal base. -/
theorem test_ldB :
    stepGives ((regsAndWord [(0, 123#8)] 0xF033).setIndex 0xFFD#16)
      (fun t => t.mem.readBytes 0xFFD 3 == [1#8, 2#8, 3#8] && t.i == 0xFFD#16) = true := by decide

/-- TV-mem-15. -/
theorem test_ldB_fault :
    stepGives ((regsAndWord [(0, 123#8)] 0xF033).setIndex 0xFFE#16)
      (fun t => t.status == .faulted .memOutOfRange 0x1000#16 && t.mem.read 0xFFE == 0#8 && t.pc == 0x200#16) = true := by
  decide

/-- TV-mem-16: X is a count, `I` is kept. -/
theorem test_dump :
    stepGives ((regsAndWord [(0, 0xAA#8), (1, 0xBB#8), (2, 0xCC#8)] 0xF155).setIndex 0x300#16)
      (fun t => t.mem.readBytes 0x300 3 == [0xAA#8, 0xBB#8, 0x00#8] && t.i == 0x300#16) = true := by decide

/-- TV-mem-18. -/
theorem test_dump_fault :
    stepGives ((regsAndWord [(0, 1#8)] 0xFF55).setIndex 0xFF1#16)
      (fun t => t.status == .faulted .memOutOfRange 0x1000#16 && t.mem.read 0xFF1 == 0#8) = true := by decide

/-- TV-mem-19. -/
theorem test_load :
    stepGives (bytesAt 0x300 [1, 2, 3] ((regsAndWord [(3, 0x77#8)] 0xF265).setIndex 0x300#16))
      (fun t => t.readV 0 == 1#8 && t.readV 1 == 2#8 && t.readV 2 == 3#8 && t.readV 3 == 0x77#8 && t.i == 0x300#16) = true := by
  decide

/-- TV-mem-22: `info` is `I` itself above 0x1000. -/
theorem test_load_fault :
    stepGives ((regsAndWord [] 0xF065).setIndex 0x1234#16)
      (fun t => t.status == .faulted .memOutOfRange 0x1234#16) = true := by decide

/-- TV-rst-7: the font. -/
theorem test_font :
    State.reset.mem.readBytes 0x000 5 = [0xF0, 0x90, 0x90, 0x90, 0xF0] ∧
    State.reset.mem.readBytes 0x04B 6 = [0xF0, 0x80, 0xF0, 0x80, 0x80, 0x00] := by decide

/-! ### Display -/

/-- TV-dsp-14. -/
theorem test_cls :
    stepGives ((regsAndWord [(0xF, 7#8)] 0x00E0).setPixels (setPixel blankScreen 5 5 true))
      (fun t => allPixels false [(0, 0), (5, 5), (63, 31)] t.fb && t.redraw && t.readV 0xF == 7#8) = true := by decide

/-- TV-dsp-7: a draw that wraps in both axes. -/
theorem test_drw_wraps :
    stepGives (bytesAt 0x300 [0xF0, 0x81] ((regsAndWord [(0, 62#8), (1, 31#8)] 0xD012).setIndex 0x300#16))
      (fun t => allPixels true [(62, 31), (1, 31), (5, 0)] t.fb && allPixels false [(2, 31), (6, 0)] t.fb &&
        t.readV 0xF == 0#8) = true := by decide

/-- TV-dsp-3, TV-dsp-13: a collision; and the X coordinate read from `VF` before `VF` is written. -/
theorem test_drw_collides :
    stepGives (bytesAt 0x300 [0xC0] (((regsAndWord [(0, 63#8)] 0xD011).setIndex 0x300#16).setPixels
        (setPixel (setPixel blankScreen 63 0 true) 0 0 true)))
      (fun t => allPixels false [(63, 0), (0, 0), (1, 0)] t.fb && t.readV 0xF == 1#8) = true ∧
    stepGives (bytesAt 0x300 [0x80] ((regsAndWord [(0xF, 10#8), (1, 3#8)] 0xDF11).setIndex 0x300#16))
      (fun t => allPixels true [(10, 3)] t.fb && allPixels false [(9, 3), (11, 3), (3, 10)] t.fb && t.readV 0xF == 0#8) = true := by decide

/-- TV-dsp-9: N = 0, with `I` above memory. -/
theorem test_drw_empty :
    stepGives ((regsAndWord [(0xF, 1#8)] 0xD010).setIndex 0x1000#16)
      (fun t => t.readV 0xF == 0#8 && t.redraw && t.status == .running && t.pc == 0x202#16) = true := by decide

/-- TV-dsp-11. -/
theorem test_drw_fault :
    stepGives ((regsAndWord [(0xF, 1#8)] 0xD012).setIndex 0xFFF#16)
      (fun t => t.status == .faulted .memOutOfRange 0x1000#16 && t.readV 0xF == 1#8 && !t.redraw) = true := by decide

/-! ### Keypad -/

/-- TV-key-1, TV-key-2. -/
theorem test_skp :
    stepGives ((regsAndWord [(2, 5#8)] 0xE29E).writeKey 5 true) (fun t => t.pc == 0x204#16) = true ∧
    stepGives (regsAndWord [(2, 5#8)] 0xE29E) (fun t => t.pc == 0x202#16) = true := by decide

/-- TV-key-5. -/
theorem test_skp_fault :
    stepGives (regsAndWord [(2, 16#8)] 0xE29E) (fun t => t.status == .faulted .keyIndexOutOfRange 0x0010#16) = true := by
  decide

/-- TV-key-3, TV-key-4. -/
theorem test_sknp :
    stepGives (regsAndWord [(2, 5#8)] 0xE2A1) (fun t => t.pc == 0x204#16) = true ∧
    stepGives ((regsAndWord [(2, 5#8)] 0xE2A1).writeKey 5 true) (fun t => t.pc == 0x202#16) = true := by decide

/-- TV-key-6. -/
theorem test_sknp_fault :
    stepGives (regsAndWord [(2, 0xFF#8)] 0xE2A1) (fun t => t.status == .faulted .keyIndexOutOfRange 0x00FF#16) = true := by
  decide

/-- TV-key-7: the lowest key wins. -/
theorem test_ldVxK :
    stepGives (((regsAndWord [] 0xF10A).writeKey 3 true).writeKey 9 true)
      (fun t => t.readV 1 == 3#8 && t.pc == 0x202#16 && t.status == .running) = true := by decide

/-- TV-key-8. -/
theorem test_ldVxK_waits :
    stepGives (regsAndWord [(1, 9#8)] 0xF10A)
      (fun t => t.status == .awaitingKey 1 && t.pc == 0x200#16 && t.readV 1 == 9#8) = true := by decide

/-- TV-key-9, TV-key-10, TV-key-11: a CYCLE and a release do nothing to the wait, a press completes it. -/
theorem test_setKey_completes :
    runGives [.cycle 0, .setKey 4 false, .setKey 7 true] (State.reset.setStatus (.awaitingKey 1))
      (fun t => t.keys[7] && t.readV 1 == 7#8 && t.status == .running && t.pc == 0x202#16) = true := by decide

/-- TV-key-12, R192: outside the wait only the key changes, and key 16 is refused. -/
theorem test_setKey_running :
    perform (.setKey 7 true) State.reset = .next (State.reset.writeKey 7 true) ∧
    perform (.setKey 16 true) State.reset = .refused (.keyOutsideContract 16) := ⟨rfl, rfl⟩

/-! ### Timers and sound -/

/-- TV-tmr-1. -/
theorem test_ldDtVx : stepGives (regsAndWord [(4, 60#8)] 0xF415) (fun t => t.dt == 60#8) = true := by decide

/-- TV-tmr-5. -/
theorem test_ldVxDt :
    stepGives ((regsAndWord [] 0xF407).setDelay 0x2C#8) (fun t => t.readV 4 == 0x2C#8) = true := by decide

/-- TV-tmr-6. -/
theorem test_ldStVx :
    stepGives (regsAndWord [(0, 3#8)] 0xF018)
      (fun t => t.st == 3#8 && t.soundDuration == 3#8 && t.soundPending && t.pc == 0x202#16) = true := by decide

/-- TV-tmr-7: the stall changes nothing. -/
theorem test_ldStVx_stalls :
    stepGives ((regsAndWord [(0, 9#8)] 0xF018).setPending true)
      (fun t => t == (regsAndWord [(0, 9#8)] 0xF018).setPending true) = true := by decide

/-- TV-tmr-4, TV-tmr-12: one tick, in the key wait too. -/
theorem test_tick :
    runGives [.tick] (((State.reset.setDelay 1#8).setSound 5#8).setStatus (.awaitingKey 1))
      (fun t => t.dt == 0#8 && t.st == 4#8 && t.status == .awaitingKey 1) = true ∧
    runGives [.tick] State.reset (fun t => t == State.reset) = true := by decide

/-- TV-tmr-8, TV-tmr-11. -/
theorem test_acknowledges :
    runGives [.ackSound, .ackRedraw] (((State.reset.setPending true).setSound 2#8).setRedraw true)
      (fun t => !t.soundPending && !t.redraw && t.st == 2#8) = true := by decide

/-! ### Reset and load -/

/-- TV-rst-2. -/
theorem test_load_program :
    runGives [.load [0x12, 0x00]] State.reset
      (fun t => t.mem.readBytes 0x1FF 4 == [0x00#8, 0x12#8, 0x00#8, 0x00#8] && t.pc == 0x200#16) = true := by decide

/-- TV-rst-1, TV-rst-6: a fault is sticky until INIT. -/
theorem test_init_leaves_fault :
    runGives [.cycle 0, .tick] (State.reset.setStatus (.faulted .stackOverflow 0x300#16))
      (fun t => t.status == .faulted .stackOverflow 0x300#16) = true ∧
    runGives [.init] (State.reset.setStatus (.faulted .stackOverflow 0x300#16)) (fun t => t == State.reset) = true := by
  decide

/-- R217's customary end: at the jump to itself the run is over, and the tick after it is not performed. -/
theorem test_runUntil_selfJump :
    (match runUntil (atSelfJump 0x202) [.cycle 0, .tick] (bytesAt 0x200 [0x60, 0x05, 0x12, 0x02] (State.reset.setDelay 5#8)) with
      | .next t => t.readV 0 == 5#8 && t.dt == 5#8 && runEnded (atSelfJump 0x202) t
      | .fault _ => false
      | .refused _ => false) = true := by decide

/-- R183: a faulted state is no end, whatever the claim's predicate says. -/
theorem test_runEnded_faulted :
    runEnded (fun _ => true) (State.reset.setStatus (.faulted .stackUnderflow 0x200#16)) = false ∧
    runEnded (fun _ => true) State.reset = true := by decide

/-- R195: the query refuses a coordinate outside the grid. -/
theorem test_queryPixel :
    queryPixel State.reset 63 31 = .ok false ∧ queryPixel State.reset 64 0 = .error (.pixelOutsideGrid 64 0) := by decide

/-! ### Witnesses: for every obligation with hypotheses, a state and operands that meet them -/

/-- The state of TV-rst-5 after 1792 CYCLEs: the next fetch is out of range. -/
def pastMemory : State := State.reset.setPc 0x1000#16

/-- A full return stack, at a CALL. -/
def fullStack (w : Nat) : State := { regsAndWord [] w with sp := 16 }

/-- A key wait for V1, every key up. -/
def waiting : State := State.reset.setStatus (.awaitingKey 1)

/-- A stopped machine. -/
def stopped : State := State.reset.setStatus (.faulted .stackUnderflow 0x200#16)

theorem witness_DecodeInvertsEncode :
    (Instr.shl 1 2).wellFormed = true ∧ (Instr.nop 0x0123#16).wellFormed = true := by decide

/-- Both disjuncts: 0x8128 selects no row, 0x812E selects row 18. -/
theorem witness_DecodeAnswersTheUniqueRow :
    (∀ r ∈ opcodeRows, r.selects 0x8128#16 = false) ∧
    (⟨18, 0xF00F#16, 0x800E#16⟩ : OpcodeRow).selects 0x812E#16 = true := by decide

/-- One word of each class of R76's table, at a boundary of its row. -/
theorem witness_UnmatchedWordsByClass :
    (fieldClass 0x00EF#16 = 0x0#4 ∧ 0x00EF#16 ≠ 0x00E0#16 ∧ 0x00EF#16 ≠ 0x00EE#16) ∧
    (fieldClass 0x5FF1#16 = 0x5#4 ∧ fieldN 0x5FF1#16 ≠ 0#4) ∧
    (fieldClass 0x8008#16 = 0x8#4 ∧ (fieldN 0x8008#16).toNat ∈ [0x8, 0x9, 0xA, 0xB, 0xC, 0xD, 0xF]) ∧
    (fieldClass 0x900F#16 = 0x9#4 ∧ fieldN 0x900F#16 ≠ 0#4) ∧
    (fieldClass 0xE09F#16 = 0xE#4 ∧ fieldNN 0xE09F#16 ≠ 0x9E#8 ∧ fieldNN 0xE09F#16 ≠ 0xA1#8) ∧
    (fieldClass 0xFFFF#16 = 0xF#4 ∧
      (fieldNN 0xFFFF#16).toNat ∉ [0x07, 0x0A, 0x15, 0x18, 0x1E, 0x29, 0x33, 0x55, 0x65]) := by decide

/-- At the last fetchable address. -/
theorem witness_StepRunsDecodedInstruction :
    let s := (State.reset.setPc 0xFFE#16).withFetchWord 16 0x6A7B
    s.status = .running ∧ s.pc.toNat ≤ 0xFFE ∧ (Instr.ldImm 0xA 0x7B).wellFormed = true ∧
      decode [s.mem.read s.pc.toNat, s.mem.read (s.pc.toNat + 1)] = .ok (.ldImm 0xA 0x7B, []) := by decide

/-- At the first address whose fetch leaves memory. -/
theorem witness_FetchAboveMemoryFaults :
    (State.reset.setPc 0xFFF#16).status = .running ∧ 0xFFE < (State.reset.setPc 0xFFF#16).pc.toNat := by decide

theorem witness_CycleIsIdleUnlessRunning : waiting.status ≠ .running ∧ stopped.status ≠ .running := by decide

theorem witness_PlacedWordRunsNext :
    pastMemory.mem.wf = true ∧ decodeTableWord 16 0x6A7B = some (.ldImm 0xA 0x7B) := by decide

theorem witness_FaultEntryIsPrecise :
    ∃ t, pastMemory.status = .running ∧ step pastMemory = .next t ∧ t.status = .faulted .fetchOutOfRange 0x1000#16 :=
  ⟨_, rfl, rfl, rfl⟩

/-- Every cause of the table is raised in some running state. -/
theorem witness_FaultsAreExactlyTheTable :
    cycleFault pastMemory = some (.fetchOutOfRange, 0x1000#16) ∧
    cycleFault ((regsAndWord [] 0xF033).setIndex 0xFFE#16) = some (.memOutOfRange, 0x1000#16) ∧
    cycleFault (fullStack 0x2400) = some (.stackOverflow, 0x200#16) ∧
    cycleFault (regsAndWord [] 0x00EE) = some (.stackUnderflow, 0x200#16) ∧
    cycleFault (regsAndWord [(2, 16#8)] 0xE29E) = some (.keyIndexOutOfRange, 0x10#16) ∧
    cycleFault ((regsAndWord [] 0xF033).setIndex 0xFFD#16) = none := by decide

/-- An instruction that completes, one that faults, one that waits, and one that stalls. -/
theorem witness_PcEndsByRuleOrStays :
    (∃ t, State.reset.status = .running ∧ exec .cls State.reset = .next t) ∧
    (∃ t, exec .ret State.reset = .next t ∧ t.status ≠ .running) ∧
    (∃ t, exec (.ldVxK 1) State.reset = .next t ∧ t.status ≠ .running) ∧
    (∃ t, exec (.ldStVx 1) (State.reset.setPending true) = .next t ∧ t.status = .running) :=
  ⟨⟨_, rfl, rfl⟩, ⟨_, rfl, by decide⟩, ⟨_, rfl, by decide⟩, ⟨_, rfl, rfl⟩⟩

/-- A named destination and the flag register both change. -/
theorem witness_OnlyDestinationsAndFlagChange :
    ∃ t, exec (.addReg 0 1) ((State.reset.writeV 0 0xFF#8).writeV 1 2#8) = .next t ∧
      t.readV 0 ≠ ((State.reset.writeV 0 0xFF#8).writeV 1 2#8).readV 0 ∧
      t.readV 0xF ≠ ((State.reset.writeV 0 0xFF#8).writeV 1 2#8).readV 0xF :=
  ⟨_, rfl, by decide, by decide⟩

theorem witness_InstructionsChangeOnlyTheirParts :
    ∃ t, exec (.dump 0xF) (State.reset.setIndex 0xFF0#16) = .next t := ⟨_, rfl⟩

theorem witness_HiddenFlagsInfluenceNothing : ∃ t, step (regsAndWord [(0, 3#8)] 0xF018) = .next t := ⟨_, rfl⟩

/-- One core at two places in the free bytes, and an operation of each outcome on it. -/
theorem witness_CoreStateIsClosed :
    State.reset.toCoreState = State.reset.nextDraw.toCoreState ∧ State.reset ≠ State.reset.nextDraw ∧
    (∃ t, perform (.cycle 0xB7#8) State.reset = .next t) ∧
    perform (.setKey 16 true) State.reset = .refused (.keyOutsideContract 16) :=
  ⟨rfl, by decide, ⟨_, rfl⟩, rfl⟩

theorem witness_LogicCombinesBitwise : (7 : Nat) < 8 := by decide

/-- X unlike 15, for ADD, SUB, SUBN, SHR and SHL. -/
theorem witness_flag_clause : (0xE#4 : RegIdx) ≠ 0xF#4 := by decide

/-- Fifteen calls are outstanding: the sixteenth is pushed; with sixteen the next faults. -/
theorem witness_CallPushesOwnAddress :
    ({ State.reset with sp := 15 } : State).sp.val < 16 ∧ (fullStack 0x2400).sp.val = 16 := by decide

/-- One entry in use, and none. -/
theorem witness_ReturnGoesPastTheCall :
    0 < (State.reset.push 0x204#16).sp.val ∧ State.reset.sp.val = 0 := by decide

/-- The last free stack entry. -/
theorem witness_CallThenReturnComesBack :
    ∃ t u, ({ State.reset with sp := 15 } : State).sp.val < 16 ∧
      exec (.call 0x20A) { State.reset with sp := 15 } = .next t ∧ exec .ret t = .next u :=
  ⟨_, _, by decide, rfl, rfl⟩

/-- The last legal base and the first that faults. -/
theorem witness_BcdStoresDigits :
    State.reset.mem.wf = true ∧ (State.reset.setIndex 0xFFD#16).i.toNat + 2 ≤ 0xFFF ∧
    0xFFF < (State.reset.setIndex 0xFFE#16).i.toNat + 2 := by decide

/-- X = 15 at the last legal base and at the first that faults. -/
theorem witness_RegisterDumpStoresRange :
    State.reset.mem.wf = true ∧ (State.reset.setIndex 0xFF0#16).i.toNat + (0xF#4 : RegIdx).toNat ≤ 0xFFF ∧
    0xFFF < (State.reset.setIndex 0xFF1#16).i.toNat + (0xF#4 : RegIdx).toNat := by decide

/-- X = 0 at the last byte of memory and just above it. -/
theorem witness_RegisterLoadFillsRange :
    (State.reset.setIndex 0xFFF#16).i.toNat + (0x0#4 : RegIdx).toNat ≤ 0xFFF ∧
    0xFFF < (State.reset.setIndex 0x1000#16).i.toNat + (0x0#4 : RegIdx).toNat := by decide

/-- No row above memory; one row at the last byte; two rows there. -/
theorem witness_DrawTogglesSpritePixels :
    (0#4 : RowCount).toNat = 0 ∧ (State.reset.setIndex 0xFFF#16).i.toNat + (1#4 : RowCount).toNat - 1 ≤ 0xFFF ∧
    (2#4 : RowCount).toNat ≠ 0 ∧ 0xFFF < (State.reset.setIndex 0xFFF#16).i.toNat + (2#4 : RowCount).toNat - 1 := by decide

/-- Glyph 0 drawn at the origin: pixel (0, 0) is under a sprite bit of 1, pixel (4, 0) is not drawn on. -/
theorem witness_UnderSprite :
    UnderSprite State.reset 0 1 5 0 0 := ⟨0, 0, by decide, by decide, by decide, by decide, by decide⟩

/-- Glyph 0 drawn twice at the origin. -/
theorem witness_DrawingTwiceRestoresScreen :
    ∃ t u, (0#4 : RegIdx) ≠ 0xF#4 ∧ (1#4 : RegIdx) ≠ 0xF#4 ∧ State.reset.i.toNat + (5#4 : RowCount).toNat - 1 ≤ 0xFFF ∧
      exec (.drw 0 1 5) State.reset = .next t ∧ exec (.drw 0 1 5) t = .next u :=
  ⟨_, _, by decide, by decide, by decide, rfl, rfl⟩

/-- The last key, and the first index above it. -/
theorem witness_KeySkipsTestTheKey :
    ((State.reset.writeV 2 15#8).readV 2).toNat < 16 ∧ 15 < ((State.reset.writeV 2 16#8).readV 2).toNat := by decide

/-- Only the last key down, and none down. -/
theorem witness_WaitForKeyTakesLowest :
    ((State.reset.writeKey 15 true).keys[15] = true ∧
      ∀ j : Fin 16, j < 15 → (State.reset.writeKey 15 true).keys[j.val] = false) ∧
    ∀ k : Fin 16, State.reset.keys[k.val] = false := by decide

theorem witness_IdleWaitEqualsRetry : waiting.KeysUpInWait ∧ waiting.status = .awaitingKey 1 :=
  ⟨fun t _ k hk => by
    have : ∀ k : Fin 16, waiting.keyDown k.val = false := by decide
    exact this ⟨k, hk⟩, rfl⟩

theorem witness_SetSoundRaisesOrStalls :
    State.reset.soundPending = false ∧ (State.reset.setPending true).soundPending = true := by decide

/-- The longest program, and one byte more. -/
theorem witness_LoadCopiesProgram :
    State.reset.mem.wf = true ∧ (List.replicate 3584 (0x12#8 : Byte)).length ≤ 3584 ∧
    3584 < (List.replicate 3585 (0x12#8 : Byte)).length :=
  ⟨rfl, by rw [List.length_replicate], by rw [List.length_replicate]; decide⟩

/-- The last key and the first refused index; a press in the wait, a release in it, a press outside it. -/
theorem witness_SetKeyCompletesTheWait :
    (∃ k : Nat, k < 16 ∧ k = 15) ∧ (∃ k : Nat, 15 < k ∧ k = 16) ∧ waiting.status = .awaitingKey 1 ∧
    ∀ x, State.reset.status ≠ .awaitingKey x :=
  ⟨⟨15, by decide, rfl⟩, ⟨16, by decide, rfl⟩, rfl, fun _ h => by cases h⟩

/-- Just outside the grid in each axis. -/
theorem witness_AcknowledgesAndQueries : ((64 : Nat) ≤ 64 ∨ 32 ≤ 0) ∧ ((64 : Nat) ≤ 0 ∨ 32 ≤ 32) := by decide

theorem witness_FaultedIsSticky :
    ∃ t, Operation.tick ≠ .init ∧ stopped.status = .faulted .stackUnderflow 0x200#16 ∧ perform .tick stopped = .next t :=
  ⟨_, by decide, rfl, rfl⟩

/-- A program in memory, `LD V1,K` at the last fetchable address, a full stack. -/
def runningAtTop : State := ({ State.reset with sp := 16 }.setPc 0xFFE#16).withFetchWord 16 0xF10A

/-- The key wait it enters. -/
def waitingAtTop : State := runningAtTop.setStatus (.awaitingKey 1)

/-- A machine stopped by the table's fault for a fetch just above memory. -/
def stoppedAtTop : State := (State.reset.setPc 0xFFF#16).setStatus (.faulted .fetchOutOfRange 0xFFF#16)

theorem witness_runningAtTop_inv : runningAtTop.Inv :=
  ⟨rfl, fun _ h => (by cases h), ⟨by decide, fun _ h => (by cases h), by decide⟩, fun _ _ h => (by cases h)⟩

theorem witness_waitingAtTop_inv : waitingAtTop.Inv :=
  ⟨rfl, fun t _ k hk => by
    have : ∀ k : Fin 16, waitingAtTop.keyDown k.val = false := by decide
    exact this ⟨k, hk⟩, ⟨by decide, fun _ _ => by decide, by decide⟩, fun _ _ h => (by cases h)⟩

theorem witness_stoppedAtTop_inv : stoppedAtTop.Inv :=
  ⟨rfl, fun _ h => (by cases h), ⟨by decide, fun _ h => (by cases h), by decide⟩, fun _ _ h => (by
    injection h with h1 h2; subst h1; subst h2; exact ⟨by decide, by decide⟩)⟩

theorem witness_StepKeepsInvariant :
    (∃ t, runningAtTop.Inv ∧ step runningAtTop = .next t ∧ t.status = .awaitingKey 1) ∧
    (∃ t, waitingAtTop.Inv ∧ step waitingAtTop = .next t) ∧ (∃ t, stoppedAtTop.Inv ∧ step stoppedAtTop = .next t) :=
  ⟨⟨_, witness_runningAtTop_inv, rfl, rfl⟩, ⟨_, witness_waitingAtTop_inv, rfl⟩, ⟨_, witness_stoppedAtTop_inv, rfl⟩⟩

theorem witness_EveryReachableStateMeetsInvariant :
    (∃ s, Reachable s ∧ s.pc = 0x202#16) ∧
    ∃ t, waitingAtTop.Inv ∧ perform (.setKey 15 true) waitingAtTop = .next t :=
  ⟨⟨_, ⟨[.cycle 0], rfl⟩, rfl⟩, _, witness_waitingAtTop_inv, rfl⟩

/-- Two memories that read alike, with a stored byte in them. -/
theorem witness_CanonicalMemoriesThatReadAlikeAreEqual :
    Memory.wf (Memory.write [] 0xFFF 7#8) = true ∧ Memory.wf (Memory.writeBytes [] 0xFFE [0#8, 7#8]) = true ∧
    ∀ a, Memory.read (Memory.write [] 0xFFF 7#8) a = Memory.read (Memory.writeBytes [] 0xFFE [0#8, 7#8]) a :=
  ⟨by decide, by decide, fun _ => rfl⟩

end Sys2Proof.Tests
end

section
/-! SUPPORT. What `exec` can do, said once: it stalls, it is interrupted by a new status (a fault of R182
`60_exceptions.md`, the key wait of R163 `45_keypad.md`), or the instruction completes. -/

namespace Sys2Proof.Machine

/-- The sound stall: `LD ST,Vx` with a sound pending changes nothing (R173 `46_timers_sound.md`). -/
def stalls : Instr → State → Bool
  | .ldStVx _, s => s.soundPending
  | _, _ => false

/-- The status a fault leaves (R181 `60_exceptions.md`). -/
def faultedBy (f : Cause × Word) : Status := .faulted f.1 f.2

/-- The status with which an instruction ends early, and which is then all it changes: the fault of R182's table, or
the key wait when every key is up (R163 `45_keypad.md`). -/
def interruption : Instr → State → Option Status
  | .ldVxK x, s => if lowestDown s.keys = none then some (.awaitingKey x) else none
  | i, s => (faultOf i s).map faultedBy

/-- The state an instruction leaves when it neither stalls nor is interrupted. -/
def completed : Instr → State → State
  | .cls, s => ((s.setPixels blankScreen).setRedraw true).advance
  | .ret, s => s.pop.setPc (s.pop.atStackPointer + 2#16)
  | .jp nnn, s => s.setPc (zextAddr nnn)
  | .call nnn, s => (s.push s.pc).setPc (zextAddr nnn)
  | .seImm x nn, s => s.skipIf (s.readV x == nn)
  | .sneImm x nn, s => s.skipIf (s.readV x != nn)
  | .seReg x y, s => s.skipIf (s.readV x == s.readV y)
  | .ldImm x nn, s => (s.writeV x nn).advance
  | .addImm x nn, s => (s.writeV x (s.readV x + nn)).advance
  | .ldReg x y, s => (s.writeV x (s.readV y)).advance
  | .orReg x y, s => (s.writeV x (s.readV x ||| s.readV y)).advance
  | .andReg x y, s => (s.writeV x (s.readV x &&& s.readV y)).advance
  | .xorReg x y, s => (s.writeV x (s.readV x ^^^ s.readV y)).advance
  | .addReg x y, s => (s.writeFlagged (carryOut (s.readV x) (s.readV y)) x (s.readV x + s.readV y)).advance
  | .sub x y, s => (s.writeFlagged (notBorrow (s.readV x) (s.readV y)) x (s.readV x - s.readV y)).advance
  | .shr x _, s => (s.writeFlagged (lowBit (s.readV x)) x (s.readV x >>> 1)).advance
  | .subn x y, s => (s.writeFlagged (notBorrow (s.readV y) (s.readV x)) x (s.readV y - s.readV x)).advance
  | .shl x _, s => (s.writeFlagged (highBit (s.readV x)) x (s.readV x <<< 1)).advance
  | .sneReg x y, s => s.skipIf (s.readV x != s.readV y)
  | .ldI nnn, s => (s.setIndex (zextAddr nnn)).advance
  | .jpV0 nnn, s => s.setPc (zextByte (s.readV 0#4) + zextAddr nnn)
  | .rnd x nn, s => (s.nextDraw.writeV x (Config.randomByte s.draws &&& nn)).advance
  | .drw x y n, s =>
    let drawn := blitRows (s.readV x).toNat (s.readV y).toNat 0 (s.mem.readBytes s.i.toNat n.toNat) (s.fb, false)
    (((s.setPixels drawn.1).writeV flagReg (flagByte drawn.2)).setRedraw true).advance
  | .skp x, s => s.skipIf (s.keyDown (s.readV x).toNat == true)
  | .sknp x, s => s.skipIf (s.keyDown (s.readV x).toNat == false)
  | .ldVxDt x, s => (s.writeV x s.dt).advance
  | .ldVxK x, s => (s.writeV x (BitVec.ofNat 8 ((lowestDown s.keys).getD 0))).advance
  | .ldDtVx x, s => (s.setDelay (s.readV x)).advance
  | .ldStVx x, s => (((s.setSound (s.readV x)).setDuration (s.readV x)).setPending true).advance
  | .addI x, s => (s.setIndex (s.i + zextByte (s.readV x))).advance
  | .ldF x, s => (s.setIndex (glyphAddress (s.readV x))).advance
  | .ldB x, s => (s.setMem (s.mem.writeBytes s.i.toNat (bcdDigits (s.readV x)))).advance
  | .dump x, s => (s.setMem (s.mem.writeBytes s.i.toNat (s.lowRegs x))).advance
  | .load x, s => (s.setRegs (fillRegs s.v 0 (s.mem.readBytes s.i.toNat (x.toNat + 1)))).advance
  | .nop _, s => s.advance

/-- The state after an instruction. -/
def execState (i : Instr) (s : State) : State :=
  if stalls i s then s else (interruption i s).elim (completed i s) s.setStatus

/-- A checked access of `n` bytes faults by R182's table, and else goes on. -/
theorem withRange_eq_next (n : Nat) (s done : State) :
    withRange n s done =
      .next (((if n = 0 then none else rangeFault s (n - 1)).map faultedBy).elim done s.setStatus) := by
  have info : lowestOutOfRange s.i = BitVec.ofNat 16 (max s.i.toNat 0x1000) := by
    rw [← toNat_lowestOutOfRange, BitVec.ofNat_toNat, BitVec.setWidth_eq]
  by_cases hn : n = 0
  · subst hn; rfl
  rw [if_neg hn, rangeFault]
  rcases withRange_cases n s done with ⟨h, e⟩ | ⟨h, e⟩
  · rw [e, if_neg (by omega)]; rfl
  · rw [e, if_pos (by omega), info]; rfl

/-- The key skips fault by R182's table, and else skip on the key. -/
theorem skipOnKey_eq_next (wanted : Bool) (x : RegIdx) (s : State) :
    skipOnKey wanted (s.readV x) s = .next (((keyFault s x).map faultedBy).elim
      (s.skipIf (s.keyDown (s.readV x).toNat == wanted)) s.setStatus) := by
  have info : zextByte (s.readV x) = BitVec.ofNat 16 (s.readV x).toNat := by
    rw [← toNat_zextByte, BitVec.ofNat_toNat, BitVec.setWidth_eq]
  unfold skipOnKey keyFault
  split
  · rw [info]; rfl
  · rfl

/-- Every instruction answers a next state, and which one: the model's `exec` by cases of its outcome. -/
theorem exec_eq_next (i : Instr) (s : State) : exec i s = .next (execState i s) := by
  cases i
  case ret => simp only [exec, execRet, execState, interruption, faultOf]; split <;> rfl
  case call nnn => simp only [exec, execCall, execState, interruption, faultOf]; split <;> rfl
  case ldStVx x => exact (apply_ite Host.Outcome.next _ s _).symm
  case ldVxK x =>
    simp only [exec, execLdVxK, execState, interruption, completed]
    cases lowestDown s.keys <;> rfl
  case skp x => exact skipOnKey_eq_next true x s
  case sknp x => exact skipOnKey_eq_next false x s
  case drw x y n => exact withRange_eq_next n.toNat s _
  case ldB x => exact withRange_eq_next 3 s _
  case dump x => exact withRange_eq_next (x.toNat + 1) s _
  case load x => exact withRange_eq_next (x.toNat + 1) s _
  all_goals rfl

end Sys2Proof.Machine
end

section
/-! SUPPORT and PROOFS. Where `PC` ends and which registers change (R25, R26 `10_state.md`): read off the inversion of
`exec`, since a stall and an interruption leave both as they were. -/

namespace Sys2Proof.Machine

/-- What an instruction can do: complete, end with a new status as its whole effect, or stall. -/
theorem exec_cases {i : Instr} {s t : State} (h : exec i s = .next t) :
    (stalls i s = false ∧ interruption i s = none ∧ t = completed i s) ∨
    (stalls i s = false ∧ ∃ x, interruption i s = some x ∧ t = s.setStatus x) ∨
    (stalls i s = true ∧ t = s) := by
  rw [exec_eq_next, execState] at h
  injection h with h
  subst h
  cases hs : stalls i s with
  | true => exact .inr (.inr ⟨rfl, rfl⟩)
  | false =>
    cases hx : interruption i s with
    | none => exact .inl ⟨rfl, rfl, rfl⟩
    | some x => exact .inr (.inl ⟨rfl, x, rfl, rfl⟩)

/-- An instruction stalls exactly as R173 (`46_timers_sound.md`) says. -/
theorem stalls_iff (i : Instr) (s : State) :
    stalls i s = true ↔ (∃ x, i = .ldStVx x) ∧ s.soundPending = true := by
  cases i <;> simp [stalls]

/-- An interruption takes the machine out of `Running`. -/
theorem interruption_ne_running {i : Instr} {s : State} {x : Status} (h : interruption i s = some x) :
    x ≠ .running := by
  rintro rfl
  unfold interruption at h
  split at h
  · split at h <;> cases h
  · obtain ⟨f, -, hf⟩ := Option.map_eq_some_iff.mp h
    cases hf

@[simp] theorem completed_status (i : Instr) (s : State) : (completed i s).status = s.status := by
  cases i <;> rfl

/-- A skip ends at `PC + 2` or `PC + 4`. -/
theorem State.skipIf_pc_cases (s : State) (taken : Bool) :
    (s.skipIf taken).pc = s.pc + 2#16 ∨ (s.skipIf taken).pc = s.pc + 4#16 := by
  cases taken
  · exact .inl rfl
  · exact .inr rfl

/-- A completed instruction leaves the `PC` of its rule. -/
theorem pcTarget_completed (i : Instr) (s : State) : PcTarget i s (completed i s).pc := by
  cases i
  case jp nnn | call nnn => exact toNat_zextAddr nnn
  case jpV0 nnn =>
    have hb := (s.readV 0#4).isLt
    have ha := nnn.isLt
    simp only [PcTarget, completed, State.setPc_pc, BitVec.toNat_add, toNat_zextByte, toNat_zextAddr]
    omega
  case seImm | sneImm | seReg | sneReg | skp | sknp => exact s.skipIf_pc_cases _
  all_goals rfl

/-- A completed instruction keeps every register that it neither names nor writes as its flag. -/
theorem readV_completed {i : Instr} {r : RegIdx} (s : State) (hd : namesDestination i r = false)
    (hf : r = flagReg → writesFlag i = false) : (completed i s).readV r = s.readV r := by
  cases i
  case ldImm | addImm | ldReg | orReg | andReg | xorReg | rnd | ldVxDt | ldVxK =>
    have hx := beq_eq_false_iff_ne.mp hd
    simp [completed, hx]
  case addReg | sub | shr | subn | shl =>
    have hx := beq_eq_false_iff_ne.mp hd
    have hr : r ≠ flagReg := fun h => Bool.noConfusion (hf h)
    simp [completed, hx, hr]
  case drw =>
    have hr : r ≠ flagReg := fun h => Bool.noConfusion (hf h)
    simp [completed, hr]
  case load x =>
    have hx : ¬ r.toNat ≤ x.toNat := of_decide_eq_false hd
    rw [completed, State.advance_readV, State.readV_eq, State.setRegs_v, getElem_fillRegs,
      dif_neg (by rw [Memory.length_readBytes]; omega), State.readV_eq]
  all_goals rfl

/-- Settles O14: an instruction that completes keeps `Running` and leaves its rule's `PC`; an interruption and a stall
leave `PC` where it was. -/
theorem pcEndsByRuleOrStays : Obligations.PcEndsByRuleOrStays := by
  intro i s t hrun h
  rcases exec_cases h with ⟨-, -, rfl⟩ | ⟨-, x, hx, rfl⟩ | ⟨hs, rfl⟩
  · exact .inl ⟨(completed_status i s).trans hrun, pcTarget_completed i s⟩
  · exact .inr ⟨rfl, .inl (interruption_ne_running hx)⟩
  · exact .inr ⟨rfl, .inr ((stalls_iff i t).mp hs)⟩

/-- Settles O15: only a completed instruction writes registers, and then only those of `readV_completed`. -/
theorem onlyDestinationsAndFlagChange : Obligations.OnlyDestinationsAndFlagChange := by
  intro i s t r h hne
  rcases exec_cases h with ⟨-, -, rfl⟩ | ⟨-, x, -, rfl⟩ | ⟨-, rfl⟩
  · by_contra hcon
    rw [not_or, Bool.not_eq_true, not_and, Bool.not_eq_true] at hcon
    exact hne (readV_completed s hcon.1 hcon.2)
  · exact absurd rfl hne
  · exact absurd rfl hne

end Sys2Proof.Machine
end

section
/-! SUPPORT. Two runs side by side: outcomes that are alike under a relation of their states (R21, R38 `10_state.md`). -/

namespace Sys2Proof.Machine

/-- Both answer next states that `R` relates, or both are refused for the same reason. -/
inductive Alike (R : State → State → Prop) : Result → Result → Prop where
  | next {s t : State} (h : R s t) : Alike R (.next s) (.next t)
  | refused (r : Refusal) : Alike R (.refused r) (.refused r)

theorem Alike.exists_next {R : State → State → Prop} {s : State} {o : Result} (h : Alike R (.next s) o) :
    ∃ t, o = .next t ∧ R s t := by
  cases h with
  | next h => exact ⟨_, rfl, h⟩

theorem Alike.eq_refused {R : State → State → Prop} {r : Refusal} {o : Result} (h : Alike R (.refused r) o) :
    o = .refused r := by
  cases h
  rfl

/-- A CYCLE from two states is alike when the parts it looks at agree, and taking a status and executing are alike. -/
theorem runCycle_alike {R : State → State → Prop} {execute : Instr → State → Result} {s s' : State}
    (hR : R s s') (hstatus : s'.status = s.status) (hpc : s'.pc = s.pc) (hmem : s'.mem = s.mem)
    (hset : ∀ x, R (s.setStatus x) (s'.setStatus x)) (hexec : ∀ i, Alike R (execute i s) (execute i s')) :
    Alike R (runCycle execute s) (runCycle execute s') := by
  have hfetch : fetchWord s' = fetchWord s := by rw [fetchWord, hpc, hmem]; rfl
  unfold runCycle
  rw [hstatus, hpc, hfetch]
  cases s.status with
  | faulted c info => exact .next hR
  | awaitingKey x => exact .next hR
  | running =>
    dsimp only
    split
    · exact .next (hset _)
    · exact hexec _

end Sys2Proof.Machine
end

section
/-! SUPPORT and PROOFS. `redraw`, `sound_duration` and `ST` influence no instruction (R38 `10_state.md`). -/

namespace Sys2Proof.Machine

/-- The state with the three components that R38 hides from the program set to given values. -/
def State.withHidden (s : State) (rd : Bool) (d st : Byte) : State := ((s.setRedraw rd).setDuration d).setSound st

/-- The second state is the first but for the three hidden components. -/
def SameButHidden (s t : State) : Prop := t = s.withHidden t.redraw t.soundDuration t.st

theorem sameButHidden_withHidden (s : State) (rd : Bool) (d st : Byte) : SameButHidden s (s.withHidden rd d st) := rfl

section
variable (s : State) (rd : Bool) (d st : Byte)

theorem stalls_withHidden (i : Instr) : stalls i (s.withHidden rd d st) = stalls i s := by
  cases i <;> rfl

theorem interruption_withHidden (i : Instr) : interruption i (s.withHidden rd d st) = interruption i s := by
  cases i <;> rfl

theorem completed_withHidden (i : Instr) : SameButHidden (completed i s) (completed i (s.withHidden rd d st)) := by
  cases i <;> rfl

theorem execState_withHidden (i : Instr) : SameButHidden (execState i s) (execState i (s.withHidden rd d st)) := by
  unfold execState
  rw [stalls_withHidden, interruption_withHidden]
  cases stalls i s with
  | true => rfl
  | false =>
    cases interruption i s with
    | none => exact completed_withHidden s rd d st i
    | some x => rfl

/-- A step from two states that differ in the hidden components only. -/
theorem step_withHidden : Alike SameButHidden (step s) (step (s.withHidden rd d st)) := by
  refine runCycle_alike (sameButHidden_withHidden s rd d st) rfl rfl rfl (fun _ => rfl) fun i => ?_
  rw [exec_eq_next, exec_eq_next]
  exact .next (execState_withHidden s rd d st i)

end

/-- Settles O17: no guard and no written value depends on the hidden components, so two steps from states that
differ in them only stay so. -/
theorem hiddenFlagsInfluenceNothing : Obligations.HiddenFlagsInfluenceNothing := by
  intro s t rd d st h
  have alike := step_withHidden s rd d st
  rw [h] at alike
  exact alike.exists_next

end Sys2Proof.Machine
end

section
/-! SUPPORT and PROOFS. No operation reads or writes `draws`: the core of R20 is closed (R21 `10_state.md`). -/

namespace Sys2Proof.Machine

/-- The same core at place `n` in the free bytes. -/
def State.setDraws (s : State) (n : Nat) : State := { s with draws := n }

@[simp] theorem State.setDraws_toCoreState (s : State) (n : Nat) : (s.setDraws n).toCoreState = s.toCoreState := rfl
@[simp] theorem State.setDraws_draws (s : State) (n : Nat) : (s.setDraws n).draws = n := rfl

/-- States with the same core differ in `draws` at most. -/
theorem State.eq_setDraws_of_core {s s' : State} (h : s.toCoreState = s'.toCoreState) : s' = s.setDraws s'.draws :=
  State.eq_of_core h.symm rfl

/-- The second state is the first at place `n` in the free bytes. -/
def SameAtDraws (n : Nat) (s t : State) : Prop := t = s.setDraws n

section
variable (s : State) (n : Nat)

theorem stalls_setDraws (i : Instr) : stalls i (s.setDraws n) = stalls i s := by
  cases i <;> rfl

theorem interruption_setDraws (i : Instr) : interruption i (s.setDraws n) = interruption i s := by
  cases i <;> rfl

/-- RND alone takes a free byte, so it alone is excepted. -/
theorem completed_setDraws {i : Instr} (hi : ∀ x nn, i ≠ .rnd x nn) :
    completed i (s.setDraws n) = (completed i s).setDraws n := by
  cases i
  case rnd x nn => exact absurd rfl (hi x nn)
  all_goals rfl

theorem execState_setDraws {i : Instr} (hi : ∀ x nn, i ≠ .rnd x nn) :
    execState i (s.setDraws n) = (execState i s).setDraws n := by
  unfold execState
  rw [stalls_setDraws, interruption_setDraws, completed_setDraws s n hi]
  cases stalls i s with
  | true => rfl
  | false => cases interruption i s <;> rfl

theorem execWith_setDraws (rand : Byte) (i : Instr) :
    Alike (SameAtDraws n) (execWith rand i s) (execWith rand i (s.setDraws n)) := by
  rcases execWith_cases rand i s with ⟨x, nn, rfl, -⟩ | ⟨hi, e⟩
  · exact .next rfl
  · have e' : execWith rand i (s.setDraws n) = exec i (s.setDraws n) := by
      rcases execWith_cases rand i (s.setDraws n) with ⟨x, nn, hx, -⟩ | ⟨-, e'⟩
      · exact absurd hx (hi x nn)
      · exact e'
    rw [e, e', exec_eq_next, exec_eq_next]
    exact .next (execState_setDraws s n hi)

theorem loadProgram_setDraws (bytes : List Byte) :
    Alike (SameAtDraws n) (loadProgram bytes s) (loadProgram bytes (s.setDraws n)) := by
  unfold loadProgram
  split
  · exact .next rfl
  · exact .refused _

theorem setKey_setDraws (k : Nat) (pressed : Bool) :
    Alike (SameAtDraws n) (setKey k pressed s) (setKey k pressed (s.setDraws n)) := by
  have hstatus : (s.setDraws n).status = s.status := rfl
  unfold setKey
  rw [hstatus]
  split
  · exact .refused _
  · cases s.status with
    | running => exact .next rfl
    | faulted c info => exact .next rfl
    | awaitingKey x => cases pressed <;> exact .next rfl

/-- Every operation does the same at another place in the free bytes, and stays at that place. -/
theorem perform_setDraws (op : Operation) :
    Alike (SameAtDraws n) (perform op s) (perform op (s.setDraws n)) := by
  cases op with
  | cycle rand =>
    exact runCycle_alike rfl rfl rfl rfl (fun _ => rfl) (execWith_setDraws s n rand)
  | load bytes => exact loadProgram_setDraws s n bytes
  | setKey k pressed => exact setKey_setDraws s n k pressed
  | init | tick | ackRedraw | ackSound => exact .next rfl

/-- No operation moves the place in the free bytes: put where it already stands, it must stay. -/
theorem perform_draws {op : Operation} {t : State} (h : perform op s = .next t) : t.draws = s.draws := by
  have alike : Alike (SameAtDraws s.draws) (perform op s) (perform op s) := perform_setDraws s s.draws op
  rw [h] at alike
  cases alike with
  | next ht =>
    have hd : t.draws = (t.setDraws s.draws).draws := congrArg State.draws ht
    exact hd

end

/-- Settles O60: two states with one core are the same state at two places in the free bytes, and no operation reads
or moves that place. -/
theorem coreStateIsClosed : Obligations.CoreStateIsClosed := by
  intro op s s' hcore
  have alike := perform_setDraws s s'.draws op
  rw [← State.eq_setDraws_of_core hcore] at alike
  refine ⟨fun t h => ⟨perform_draws s h, ?_⟩, fun r h => ?_⟩
  · rw [h] at alike
    obtain ⟨t', h', rfl⟩ := alike.exists_next
    exact ⟨_, h', rfl⟩
  · rw [h] at alike
    exact alike.eq_refused

end Sys2Proof.Machine
end

section
/-! SUPPORT and PROOFS. A fetch above memory (R55 `20_memory.md`): the step only takes the fault's status. -/

namespace Sys2Proof.Machine

/-- Taking a status is a change of that one part. -/
theorem State.setStatus_changesOnly (s : State) (x : Status) : ChangesOnly [.status] s (s.setStatus x) := by
  intro p hp
  cases p
  case status => exact absurd (List.mem_singleton_self _) hp
  all_goals simp [SameOn]

/-- Of the three ways of a CYCLE, the one in `Running` with `PC` above 0xFFE. -/
theorem step_of_fetch_above_memory {s : State} (hrun : s.status = .running) (hpc : 0xFFE < s.pc.toNat) :
    step s = .next (s.setStatus (.faulted .fetchOutOfRange s.pc)) := by
  rcases step_cases s with ⟨hidle, -⟩ | ⟨-, -, hfault⟩ | ⟨-, hfetchable, -⟩
  · exact absurd hrun hidle
  · exact hfault
  · exact absurd hpc (Nat.not_lt.mpr hfetchable)

/-- Settles O8: the step takes the status of FetchOutOfRange(PC), and that is all it changes. -/
theorem fetchAboveMemoryFaults : Obligations.FetchAboveMemoryFaults := by
  intro s hrun hpc
  exact ⟨_, step_of_fetch_above_memory hrun hpc, s.setStatus_status _, s.setStatus_changesOnly _⟩

end Sys2Proof.Machine
end

section
/-! SUPPORT and PROOFS. Words and instructions (`30_encoding.md`): the table of the unmatched words (R76), read off
the decoder and off the opcode map, and the round trip of an instruction through its word (R81). -/

namespace Sys2Proof

/-- The table of R76: the words that match no instruction, class by class. -/
def ListedUnmatched (w : Word) : Prop :=
  (fieldClass w = 0x0#4 ∧ w ≠ 0x00E0#16 ∧ w ≠ 0x00EE#16) ∨
  (fieldClass w = 0x5#4 ∧ fieldN w ≠ 0#4) ∨
  (fieldClass w = 0x8#4 ∧ (fieldN w).toNat ∈ [0x8, 0x9, 0xA, 0xB, 0xC, 0xD, 0xF]) ∨
  (fieldClass w = 0x9#4 ∧ fieldN w ≠ 0#4) ∨
  (fieldClass w = 0xE#4 ∧ fieldNN w ≠ 0x9E#8 ∧ fieldNN w ≠ 0xA1#8) ∨
  (fieldClass w = 0xF#4 ∧ (fieldNN w).toNat ∉ [0x07, 0x0A, 0x15, 0x18, 0x1E, 0x29, 0x33, 0x55, 0x65])

/-! ### The no-op of each second level of the decoder (R73) -/

theorem decodeSystem_eq_nop (w : Word) : decodeSystem w = .nop w ↔ w ≠ 0x00E0#16 ∧ w ≠ 0x00EE#16 := by
  unfold decodeSystem
  split
  · simp [*]
  · split <;> simp [*]

theorem decodeArith_eq_nop (w : Word) :
    decodeArith w = .nop w ↔ (fieldN w).toNat ∈ [0x8, 0x9, 0xA, 0xB, 0xC, 0xD, 0xF] := by
  have hn := (fieldN w).isLt
  unfold decodeArith
  interval_cases (fieldN w).toNat <;> simp

theorem decodeKeySkip_eq_nop (w : Word) :
    decodeKeySkip w = .nop w ↔ fieldNN w ≠ 0x9E#8 ∧ fieldNN w ≠ 0xA1#8 := by
  unfold decodeKeySkip
  split <;> simp_all [← BitVec.toNat_inj]

theorem decodeMisc_eq_nop (w : Word) : decodeMisc w = .nop w ↔
    (fieldNN w).toNat ∉ [0x07, 0x0A, 0x15, 0x18, 0x1E, 0x29, 0x33, 0x55, 0x65] := by
  unfold decodeMisc
  split <;> simp_all

/-! ### R76's table, for the decoder and for the opcode map -/

/-- The decoder answers the no-op exactly for the listed words: the classes without a second level never do. -/
theorem decodeWord_eq_nop (w : Word) : decodeWord w = .nop w ↔ ListedUnmatched w := by
  have hc := (fieldClass w).isLt
  simp only [decodeWord, ListedUnmatched, ← BitVec.toNat_inj (x := fieldClass w)]
  interval_cases (fieldClass w).toNat <;>
    simp [decodeSystem_eq_nop, decodeArith_eq_nop, decodeKeySkip_eq_nop, decodeMisc_eq_nop]

/-- Mask 0xFFFF tests the whole word, its class included. -/
theorem and_fullMask (w p : Word) : (w &&& 0xFFFF#16 == p) = (fieldClass w == fieldClass p && w == p) := by
  rw [show (0xFFFF#16 : Word) = BitVec.allOnes 16 from rfl, BitVec.and_allOnes]
  by_cases h : w = p <;> simp [h]

/-- No row of the opcode map selects exactly the listed words. With every mask read as a test of fields, the two
sides are compared class by class; in class 0x8 the rows name the nibbles that are defined, R76 those that are not. -/
theorem unmatched_iff (w : Word) : unmatched w = true ↔ ListedUnmatched w := by
  simp only [unmatched, opcodeRows, opcodeRowsLow, opcodeRowsHigh, OpcodeRow.selects, ListedUnmatched,
    List.cons_append, List.nil_append, List.all_cons, List.all_nil, and_fullMask, and_classMask, and_nibbleMask,
    and_byteMask, BitVec.reduceAnd]
  generalize fieldClass w = c, fieldN w = n, fieldNN w = nn
  have hc := c.isLt
  have hn := n.isLt
  simp only [fieldClass, fieldN, fieldNN, BitVec.reduceExtractLsb', beq_eq_decide, ← BitVec.toNat_inj (x := c)]
  interval_cases c.toNat <;> simp [← BitVec.toNat_inj (x := n), ← BitVec.toNat_inj (x := nn)]
  · omega

/-- Settles O4: the words the decoder answers with the no-op are the listed ones. -/
theorem unmatchedWordsByClass : Obligations.UnmatchedWordsByClass := decodeWord_eq_nop

/-! ### The round trip (R81) -/

/-- The word of a well-formed no-op is listed, so the decoder answers the no-op again. -/
theorem decodeWord_of_unmatched {w : Word} (h : unmatched w = true) : decodeWord w = .nop w :=
  (decodeWord_eq_nop w).mpr ((unmatched_iff w).mp h)

/-- Settles O1, by the format of the word: its class is the pattern's, its sub-opcode is the pattern's where the
second level asks for one, and its operand fields are the instruction's. -/
theorem decodeInvertsEncode : Obligations.DecodeInvertsEncode := by
  intro i h
  cases i
  case nop w => exact decodeWord_of_unmatched h
  case cls | ret => rfl
  case jp nnn | call nnn | ldI nnn | jpV0 nnn =>
    simp only [encode, decodeWord, fieldClass_wordNNN, fieldNNN_wordNNN]
    simp [fieldClass, fieldNNN]
  case seImm x nn | sneImm x nn | ldImm x nn | addImm x nn | rnd x nn | skp x | sknp x | ldVxDt x | ldVxK x
      | ldDtVx x | ldStVx x | addI x | ldF x | ldB x | dump x | load x =>
    simp only [encode, decodeWord, decodeKeySkip, decodeMisc, fieldClass_wordXNN, fieldX_wordXNN, fieldNN_wordXNN]
    simp [fieldClass, fieldX, fieldNN]
  case seReg x y | ldReg x y | orReg x y | andReg x y | xorReg x y | addReg x y | sub x y | shr x y | subn x y
      | shl x y | sneReg x y | drw x y n =>
    simp only [encode, decodeWord, decodeArith, fieldClass_wordXYN, fieldX_wordXYN, fieldY_wordXYN, fieldN_wordXYN]
    simp [fieldClass, fieldX, fieldY, fieldN]

end Sys2Proof
end

section
/-! SUPPORT. Encoding what a word decodes to (R81 `30_encoding.md`): each format of the encoder gives the word back
when its pattern has the word's class and sub-opcode and leaves the operand fields empty. -/

namespace Sys2Proof

/-- A word is its class and its low twelve bits (R72). -/
theorem word_ext_of_fieldNNN {w u : Word} (hc : fieldClass w = fieldClass u)
    (hn : fieldNNN w = fieldNNN u) : w = u := by
  apply BitVec.eq_of_getLsbD_eq; intro i h
  have a := congrArg (·.getLsbD (i - 12)) hc
  have b := congrArg (·.getLsbD i) hn
  simp only [fieldClass, fieldNNN, BitVec.getLsbD_extractLsb'] at a b
  interval_cases i <;> simp_all

/-- A word is its class, its X and its low byte (R72). -/
theorem word_ext_of_fieldNN {w u : Word} (hc : fieldClass w = fieldClass u) (hx : fieldX w = fieldX u)
    (hn : fieldNN w = fieldNN u) : w = u := by
  apply BitVec.eq_of_getLsbD_eq; intro i h
  have a := congrArg (·.getLsbD (i - 12)) hc
  have b := congrArg (·.getLsbD (i - 8)) hx
  have c := congrArg (·.getLsbD i) hn
  simp only [fieldClass, fieldX, fieldNN, BitVec.getLsbD_extractLsb'] at a b c
  interval_cases i <;> simp_all

section
variable {w p : Word} (hc : (fieldClass w).toNat = (fieldClass p).toNat)
include hc

theorem wordNNN_eq_self (hp : fieldNNN p = 0#12) : wordNNN p (fieldNNN w) = w :=
  word_ext_of_fieldNNN (by simp [BitVec.eq_of_toNat_eq hc]) (by simp [hp])

theorem wordXNN_eq_self {nn : Byte} (hx : fieldX p = 0#4) (hn : (fieldNN w).toNat = (fieldNN p ||| nn).toNat) :
    wordXNN p (fieldX w) nn = w :=
  word_ext_of_fieldNN (by simp [BitVec.eq_of_toNat_eq hc]) (by simp [hx]) (by simp [BitVec.eq_of_toNat_eq hn])

theorem wordXYN_eq_self {n : RowCount} (hx : fieldX p = 0#4) (hy : fieldY p = 0#4)
    (hn : (fieldN w).toNat = (fieldN p ||| n).toNat) : wordXYN p (fieldX w) (fieldY w) n = w :=
  word_ext (by simp [BitVec.eq_of_toNat_eq hc]) (by simp [hx]) (by simp [hy]) (by simp [BitVec.eq_of_toNat_eq hn])

/-- A format whose low byte is all operand. -/
theorem wordXNN_fieldNN_eq_self (hx : fieldX p = 0#4) (hn : fieldNN p = 0#8) :
    wordXNN p (fieldX w) (fieldNN w) = w := wordXNN_eq_self hc hx (by simp [hn])

end

/-! ### Each second level of the decoder (R73) -/

theorem encode_decodeSystem (w : Word) : encode (decodeSystem w) = w := by
  unfold decodeSystem
  split
  · next h => exact h.symm
  · split
    · next h => exact h.symm
    · rfl

theorem encode_decodeArith {w : Word} (hc : (fieldClass w).toNat = 0x8) : encode (decodeArith w) = w := by
  unfold decodeArith
  split
  case h_10 => rfl
  all_goals exact wordXYN_eq_self hc rfl rfl ‹_›

theorem encode_decodeKeySkip {w : Word} (hc : (fieldClass w).toNat = 0xE) : encode (decodeKeySkip w) = w := by
  unfold decodeKeySkip
  split
  case h_3 => rfl
  all_goals exact wordXNN_eq_self hc rfl ‹_›

theorem encode_decodeMisc {w : Word} (hc : (fieldClass w).toNat = 0xF) : encode (decodeMisc w) = w := by
  unfold decodeMisc
  split
  case h_10 => rfl
  all_goals exact wordXNN_eq_self hc rfl ‹_›

/-- Classes 0x5 and 0x9: an instruction on two registers where `w[3:0]` is 0, and else the no-op. -/
theorem encode_ite_fieldN {w p : Word} {i : Instr} (hc : (fieldClass w).toNat = (fieldClass p).toNat)
    (hx : fieldX p = 0#4) (hy : fieldY p = 0#4) (hn : fieldN p = 0#4)
    (hi : encode i = wordXYN p (fieldX w) (fieldY w) 0#4) :
    encode (if fieldN w = 0#4 then i else .nop w) = w := by
  split
  · next h => exact hi.trans (wordXYN_eq_self hc hx hy (by simp [h, hn]))
  · rfl

/-- The round trip of a word, class by class. -/
theorem encode_decodeWord (w : Word) : encode (decodeWord w) = w := by
  have hlt := (fieldClass w).isLt
  unfold decodeWord
  split
  case h_1 => exact encode_decodeSystem w
  case h_2 | h_3 | h_11 | h_12 => exact wordNNN_eq_self ‹_› rfl
  case h_4 | h_5 | h_7 | h_8 | h_13 => exact wordXNN_fieldNN_eq_self ‹_› rfl rfl
  case h_6 hc => exact encode_ite_fieldN (p := 0x5000#16) hc rfl rfl rfl rfl
  case h_9 hc => exact encode_decodeArith hc
  case h_10 hc => exact encode_ite_fieldN (p := 0x9000#16) hc rfl rfl rfl rfl
  case h_14 hc => exact wordXYN_eq_self hc rfl rfl (congrArg BitVec.toNat BitVec.zero_or.symm)
  case h_15 hc => exact encode_decodeKeySkip hc
  case h_16 =>
    have hc : (fieldClass w).toNat = 0xF := by
      simp only [imp_false] at *
      omega
    exact encode_decodeMisc hc

end Sys2Proof
end

section
/-! SUPPORT and PROOFS. The decoder against the opcode map (R75 `30_encoding.md`, R92 `40_fetch_decode.md`). -/

namespace Sys2Proof

/-- The word of every well-formed instruction selects its own row only: the laws per instruction, put together. -/
theorem selectsOwnRow (i : Instr) : Laws.SelectsOwnRow.Statement i := by
  cases i with
  | cls => exact Laws.SelectsOwnRow.cls
  | ret => exact Laws.SelectsOwnRow.ret
  | jp nnn => exact Laws.SelectsOwnRow.jp nnn
  | call nnn => exact Laws.SelectsOwnRow.call nnn
  | seImm x nn => exact Laws.SelectsOwnRow.seImm x nn
  | sneImm x nn => exact Laws.SelectsOwnRow.sneImm x nn
  | seReg x y => exact Laws.SelectsOwnRow.seReg x y
  | ldImm x nn => exact Laws.SelectsOwnRow.ldImm x nn
  | addImm x nn => exact Laws.SelectsOwnRow.addImm x nn
  | ldReg x y => exact Laws.SelectsOwnRow.ldReg x y
  | orReg x y => exact Laws.SelectsOwnRow.orReg x y
  | andReg x y => exact Laws.SelectsOwnRow.andReg x y
  | xorReg x y => exact Laws.SelectsOwnRow.xorReg x y
  | addReg x y => exact Laws.SelectsOwnRow.addReg x y
  | sub x y => exact Laws.SelectsOwnRow.sub x y
  | shr x y => exact Laws.SelectsOwnRow.shr x y
  | subn x y => exact Laws.SelectsOwnRow.subn x y
  | shl x y => exact Laws.SelectsOwnRow.shl x y
  | sneReg x y => exact Laws.SelectsOwnRow.sneReg x y
  | ldI nnn => exact Laws.SelectsOwnRow.ldI nnn
  | jpV0 nnn => exact Laws.SelectsOwnRow.jpV0 nnn
  | rnd x nn => exact Laws.SelectsOwnRow.rnd x nn
  | drw x y n => exact Laws.SelectsOwnRow.drw x y n
  | skp x => exact Laws.SelectsOwnRow.skp x
  | sknp x => exact Laws.SelectsOwnRow.sknp x
  | ldVxDt x => exact Laws.SelectsOwnRow.ldVxDt x
  | ldVxK x => exact Laws.SelectsOwnRow.ldVxK x
  | ldDtVx x => exact Laws.SelectsOwnRow.ldDtVx x
  | ldStVx x => exact Laws.SelectsOwnRow.ldStVx x
  | addI x => exact Laws.SelectsOwnRow.addI x
  | ldF x => exact Laws.SelectsOwnRow.ldF x
  | ldB x => exact Laws.SelectsOwnRow.ldB x
  | dump x => exact Laws.SelectsOwnRow.dump x
  | load x => exact Laws.SelectsOwnRow.load x
  | nop w => exact Laws.SelectsOwnRow.nop w

/-- The one condition on an instruction: a no-op carries an unmatched word (R76). -/
theorem wellFormed_iff (i : Instr) : i.wellFormed = true ↔ ∀ w, i = .nop w → unmatched w = true := by
  cases i <;> simp [Instr.wellFormed]

/-- No word is illegal (R76): a decoded no-op carries the word itself, which then matches no row. -/
theorem wellFormed_decodeWord (w : Word) : (decodeWord w).wellFormed = true := by
  rw [wellFormed_iff]
  intro u hu
  have hself : u = w := by
    have h := encode_decodeWord w
    rwa [hu] at h
  subst hself
  exact (unmatched_iff u).mpr ((decodeWord_eq_nop u).mp hu)

/-- A row selects a word exactly when its number is that of the decoded instruction. -/
theorem selects_eq_decodedRow (w : Word) {r : OpcodeRow} (hr : r ∈ opcodeRows) :
    r.selects w = decide (r.number = (decodeWord w).rowNumber) := by
  have h := selectsOwnRow (decodeWord w) (wellFormed_decodeWord w) r hr
  rwa [encode_decodeWord] at h

/-- Rows of the map with the same number are the same row. -/
theorem opcodeRow_eq_of_number : ∀ q ∈ opcodeRows, ∀ r ∈ opcodeRows, q.number = r.number → q = r := by decide

/-- Settles O3: an unmatched word is a no-op and selects no row; of any other word, the rows that select it all carry
the decoded instruction's number, so there is one. -/
theorem decodeAnswersTheUniqueRow : Obligations.DecodeAnswersTheUniqueRow := by
  intro w
  by_cases hu : unmatched w = true
  · refine .inr ⟨fun r hr => ?_, decodeWord_of_unmatched hu⟩
    simpa using List.all_eq_true.mp hu r hr
  · obtain ⟨r, hr, hsel⟩ : ∃ r ∈ opcodeRows, r.selects w = true := by simpa [unmatched] using hu
    have number : ∀ q ∈ opcodeRows, q.selects w = true → q.number = (decodeWord w).rowNumber := fun q hq h =>
      of_decide_eq_true ((selects_eq_decodedRow w hq).symm.trans h)
    refine .inl ⟨r, hr, hsel, (number r hr hsel).symm, fun q hq h => ?_⟩
    exact opcodeRow_eq_of_number q hq r hr ((number q hq h).trans (number r hr hsel).symm)

end Sys2Proof
end

section
/-! SUPPORT and PROOFS. The CYCLE operation (R90 to R96 `40_fetch_decode.md`): when it is idle, what it executes, that
it always answers a next state, and what RND's byte has to do with it. -/

namespace Sys2Proof.Machine

/-! ### Idle and executing -/

/-- Settles O9: of the three ways of a CYCLE, the idle one is the only one outside `Running`. -/
theorem cycleIsIdleUnlessRunning : Obligations.CycleIsIdleUnlessRunning := by
  intro s hidle
  rcases step_cases s with ⟨-, h⟩ | ⟨hrun, -⟩ | ⟨hrun, -⟩
  · exact h
  · exact absurd hrun hidle
  · exact absurd hrun hidle

/-- In `Running`, at a `PC` that can be fetched at, a step executes the fetched word's instruction. -/
theorem step_of_fetchable {s : State} (hrun : s.status = .running) (hpc : s.pc.toNat ≤ 0xFFE) :
    step s = exec (decodeWord (fetchWord s)) s := by
  rcases step_cases s with ⟨hidle, -⟩ | ⟨-, hfault, -⟩ | ⟨-, -, h⟩
  · exact absurd hrun hidle
  · exact absurd hfault (Nat.not_lt.mpr hpc)
  · exact h

/-- Settles O7: decoding the two bytes at `PC` is decoding the fetched word. -/
theorem stepRunsDecodedInstruction : Obligations.StepRunsDecodedInstruction := by
  intro s i hrun hpc _ hdecode
  have hi : decodeWord (fetchWord s) = i := by
    injection hdecode with h
    exact congrArg Prod.fst h
  rw [step_of_fetchable hrun hpc, hi]

/-! ### A next state always -/

/-- A CYCLE answers a next state when the instruction it may execute does. -/
theorem runCycle_answers_next {execute : Instr → State → Result} {s : State}
    (hexec : ∀ i, ∃ t, execute i s = .next t) : ∃ t, runCycle execute s = .next t := by
  rcases runCycle_cases execute s with ⟨-, h⟩ | ⟨-, -, h⟩ | ⟨-, -, h⟩
  · exact ⟨_, h⟩
  · exact ⟨_, h⟩
  · rw [h]
    exact hexec _

theorem exec_answers_next (i : Instr) (s : State) : ∃ t, exec i s = .next t := ⟨_, exec_eq_next i s⟩

theorem execWith_answers_next (rand : Byte) (i : Instr) (s : State) : ∃ t, execWith rand i s = .next t := by
  rcases execWith_cases rand i s with ⟨x, nn, -, h⟩ | ⟨-, h⟩
  · exact ⟨_, h⟩
  · rw [h]
    exact exec_answers_next i s

theorem step_answers_next (s : State) : ∃ t, step s = .next t :=
  runCycle_answers_next fun i => exec_answers_next i s

theorem cycleWith_answers_next (rand : Byte) (s : State) : ∃ t, cycleWith rand s = .next t :=
  runCycle_answers_next fun i => execWith_answers_next rand i s

/-- Settles O11: every instruction answers a next state, with RND's byte drawn or given, and so does the CYCLE
around it. -/
theorem everyStepAnswersNext : Obligations.EveryStepAnswersNext :=
  ⟨step_answers_next, cycleWith_answers_next, exec_answers_next⟩

/-! ### The step as CYCLE(rand) -/

/-- Two CYCLEs from one state are alike when what they execute is. -/
theorem runCycle_alike_of_execute {R : State → State → Prop} {e e' : Instr → State → Result} {s : State}
    (hR : ∀ t, R t t) (hexec : ∀ i, Alike R (e i s) (e' i s)) : Alike R (runCycle e s) (runCycle e' s) := by
  unfold runCycle
  cases s.status with
  | faulted c info => exact .next (hR s)
  | awaitingKey x => exact .next (hR s)
  | running =>
    dsimp only
    split
    · exact .next (hR _)
    · exact hexec _

/-- The two states agree on the fourteen components of R20 (`10_state.md`). -/
def SameCore (s t : State) : Prop := s.toCoreState = t.toCoreState

/-- Given the next free byte, an instruction does to the core what it does when it draws that byte itself: RND alone
looks at it, and the number of draws is no part of the core. -/
theorem exec_alike_execWith (i : Instr) (s : State) :
    Alike SameCore (exec i s) (execWith (Config.randomByte s.draws) i s) := by
  rcases execWith_cases (Config.randomByte s.draws) i s with ⟨x, nn, rfl, h⟩ | ⟨-, h⟩
  · rw [h]
    exact .next rfl
  · rw [h, exec_eq_next]
    exact .next rfl

/-- Settles O59: the step and `CYCLE(rand)` are the same CYCLE around executions that are alike. -/
theorem stepIsCycleWithFreeByte : Obligations.StepIsCycleWithFreeByte := by
  intro s
  have alike : Alike SameCore (step s) (perform (.cycle (Config.randomByte s.draws)) s) :=
    runCycle_alike_of_execute (fun _ => rfl) fun i => exec_alike_execWith i s
  obtain ⟨t, ht⟩ := step_answers_next s
  rw [ht] at alike
  obtain ⟨u, hu, hcore⟩ := alike.exists_next
  exact ⟨t, u, ht, hu, hcore⟩

end Sys2Proof.Machine
end

section
/-! SUPPORT and PROOFS. The two instructions of `40_fetch_decode.md` itself: the unmatched no-op (R95), and the key wait
that a CYCLE leaves alone (R94) where the instruction, run again, would enter it again (R163 `45_keypad.md`). -/

namespace Sys2Proof.Machine

/-- Moving `PC` is a change of that one part. -/
theorem State.setPc_changesOnly (s : State) (a : Word) : ChangesOnly [.pc] s (s.setPc a) := by
  intro p hp
  cases p
  case pc => exact absurd (List.mem_singleton_self _) hp
  all_goals simp [SameOn]

/-- Settles O34: whatever the word, the no-op is the ordinary end of an instruction and nothing before it. -/
theorem unmatchedWordOnlyAdvances : Obligations.UnmatchedWordOnlyAdvances :=
  fun _ s => ⟨s.advance, rfl, rfl, s.setPc_changesOnly _⟩

@[simp] theorem State.setStatus_setStatus (s : State) (x y : Status) :
    (s.setStatus x).setStatus y = s.setStatus y := rfl

/-- Taking the status it already has leaves the state as it is. -/
theorem State.setStatus_self (s : State) : s.setStatus s.status = s := rfl

/-- With every key up `LD Vx,K` enters the wait. -/
theorem execLdVxK_of_keys_up {s : State} (x : RegIdx) (hup : ∀ k, k < 16 → s.keyDown k = false) :
    execLdVxK x s = .next (s.setStatus (.awaitingKey x)) := by
  rw [execLdVxK, (lowestDown_eq_none s).mpr hup]

/-- Settles O46: with every key up the instruction enters the wait that the state is in already, and the CYCLE that
does nothing stays in it. -/
theorem idleWaitEqualsRetry : Obligations.IdleWaitEqualsRetry := by
  intro s x hup hwait
  have retry : exec (.ldVxK x) (s.setStatus .running) = .next s := by
    calc exec (.ldVxK x) (s.setStatus .running)
        = .next ((s.setStatus .running).setStatus (.awaitingKey x)) := execLdVxK_of_keys_up x (hup x hwait)
      _ = .next s := by rw [State.setStatus_setStatus, ← hwait, State.setStatus_self]
  exact ⟨s, retry, cycleIsIdleUnlessRunning s (by rw [hwait]; nofun)⟩

end Sys2Proof.Machine
end

section
/-! SUPPORT and PROOFS. The control transfers (`41_control_flow.md`): jumps and skips move `PC` alone, call and return
move the return stack too, or end in the fault that its bounds raise. -/

namespace Sys2Proof.Machine

/-! ### Frames of the return stack, and of one update after another -/

theorem SameOn.trans {p : Part} {s t u : State} (hst : SameOn p s t) (htu : SameOn p t u) : SameOn p s u := by
  cases p
  case mem | regs | stack | keys => exact fun k => (htu k).trans (hst k)
  case display => exact fun x y => (htu x y).trans (hst x y)
  all_goals exact Eq.trans htu hst

/-- Two updates in a row change the parts that the one or the other changes. -/
theorem ChangesOnly.trans {ps qs : List Part} {s t u : State} (hst : ChangesOnly ps s t) (htu : ChangesOnly qs t u) :
    ChangesOnly (ps ++ qs) s u := by
  intro p hp
  rw [List.mem_append, not_or] at hp
  exact (hst p hp.1).trans (htu p hp.2)

theorem State.push_changesOnly (s : State) (a : Word) : ChangesOnly [.stack, .sp] s (s.push a) := by
  intro p hp
  cases p
  case stack | sp => simp at hp
  all_goals simp [SameOn]

theorem State.pop_changesOnly (s : State) : ChangesOnly [.sp] s s.pop := by
  intro p hp
  cases p
  case sp => exact absurd (List.mem_singleton_self _) hp
  all_goals simp [SameOn]

/-! ### Entries of the return stack (R28 `10_state.md`) -/

/-- A push writes the entry at `SP` and no other. -/
theorem State.getElem_stack_push (s : State) (a : Word) {k : Nat} (hk : k < 16) :
    (s.push a).stack[k] = if s.sp.val = k then a else s.stack[k] := by
  simp only [State.push_stack, Vector.getElem_setIfInBounds]

/-- What a pop frees is the last entry in use. -/
theorem State.atStackPointer_pop (s : State) (h : 0 < s.sp.val) :
    s.pop.atStackPointer = s.stack[s.sp.val - 1] := by
  have hk : s.sp.val - 1 < 16 := by omega
  simp only [State.atStackPointer, State.pop_sp, State.pop_stack, Vector.getElem?_eq_getElem hk, Option.getD_some]

/-! ### Call and return on either side of their bound (R100, R102) -/

theorem exec_call_of_free {s : State} (nnn : Addr) (h : s.sp.val < 16) :
    exec (.call nnn) s = .next ((s.push s.pc).setPc (zextAddr nnn)) := if_neg h.ne

theorem exec_call_of_full {s : State} (nnn : Addr) (h : s.sp.val = 16) :
    exec (.call nnn) s = .next (s.setStatus (.faulted .stackOverflow s.pc)) := if_pos h

theorem exec_ret_of_used {s : State} (h : 0 < s.sp.val) :
    exec .ret s = .next (s.pop.setPc (s.pop.atStackPointer + 2#16)) := if_neg h.ne'

theorem exec_ret_of_empty {s : State} (h : s.sp.val = 0) :
    exec .ret s = .next (s.setStatus (.faulted .stackUnderflow s.pc)) := if_pos h

/-- Settles O29: below the bound a push and a jump, one after the other; at the bound the fault's status alone. -/
theorem callPushesOwnAddress : Obligations.CallPushesOwnAddress := by
  intro nnn s
  refine ⟨fun h => ⟨_, exec_call_of_free nnn h, ?_, ?_, s.push_sp_val s.pc h, toNat_zextAddr nnn, ?_⟩,
    fun h => ⟨_, exec_call_of_full nnn h, rfl, s.setStatus_changesOnly _⟩⟩
  · exact (s.getElem_stack_push s.pc h).trans (if_pos rfl)
  · exact fun k hk => (s.getElem_stack_push s.pc k.isLt).trans (if_neg hk.symm)
  · exact (s.push_changesOnly s.pc).trans (State.setPc_changesOnly _ _)

/-- Settles O30: above the bound a pop and a jump past the popped address; at the bound the fault's status alone. -/
theorem returnGoesPastTheCall : Obligations.ReturnGoesPastTheCall := by
  intro s
  refine ⟨fun h => ⟨_, exec_ret_of_used h, rfl, ?_, ?_⟩,
    fun h => ⟨_, exec_ret_of_empty h, rfl, s.setStatus_changesOnly _⟩⟩
  · exact congrArg (· + 2#16) (s.atStackPointer_pop h)
  · exact s.pop_changesOnly.trans (State.setPc_changesOnly _ _)

/-! ### Jumps and skips -/

/-- Settles O28: both jumps only move `PC`, to the target of their rule. -/
theorem jumpsReplacePc : Obligations.JumpsReplacePc := fun nnn s =>
  ⟨⟨_, rfl, pcTarget_completed (.jp nnn) s, s.setPc_changesOnly _⟩,
    ⟨_, rfl, pcTarget_completed (.jpV0 nnn) s, s.setPc_changesOnly _⟩⟩

/-- A skip whose test decides `P` takes `PC + 4` where `P` holds and else `PC + 2`, and moves `PC` alone (R107). -/
theorem State.skipIf_takes (s : State) {taken : Bool} {P : Prop} [Decidable P] (h : taken = true ↔ P) :
    (s.skipIf taken).pc = (if P then s.pc + 4#16 else s.pc + 2#16) ∧ ChangesOnly [.pc] s (s.skipIf taken) :=
  ⟨if_congr h rfl rfl, s.setPc_changesOnly _⟩

/-- Settles O32: the two tests decide `V[X] = NN` and `V[X] ≠ NN`. -/
theorem constantSkipsCompare : Obligations.ConstantSkipsCompare := fun _ _ s =>
  ⟨⟨_, rfl, s.skipIf_takes beq_iff_eq⟩, ⟨_, rfl, s.skipIf_takes bne_iff_ne⟩⟩

/-- Settles O33: the two tests decide `V[X] = V[Y]` and `V[X] ≠ V[Y]`. -/
theorem registerSkipsCompare : Obligations.RegisterSkipsCompare := fun _ _ s =>
  ⟨⟨_, rfl, s.skipIf_takes beq_iff_eq⟩, ⟨_, rfl, s.skipIf_takes bne_iff_ne⟩⟩

end Sys2Proof.Machine
end

section
/-! SUPPORT and PROOFS. The register and ALU instructions (`42_alu.md`): each writes `V[X]`, five of them `VF` before it
(R121), and ends in the ordinary way; what is left to say of each is the bytes that it writes. -/

namespace Sys2Proof.Machine

/-! ### Frames of a register write and of the draw of a free byte -/

/-- Writing general registers is a change of that one part. -/
theorem State.setRegs_changesOnly (s : State) (v : Vector Byte 16) : ChangesOnly [.regs] s (s.setRegs v) := by
  intro p hp
  cases p
  case regs => exact absurd (List.mem_singleton_self _) hp
  all_goals simp [SameOn]

theorem State.nextDraw_changesOnly (s : State) : ChangesOnly [.draws] s s.nextDraw := by
  intro p hp
  cases p
  case draws => exact absurd (List.mem_singleton_self _) hp
  all_goals simp [SameOn]

/-- More parts may be listed than change. -/
theorem ChangesOnly.mono {ps qs : List Part} {s t : State} (h : ChangesOnly ps s t) (hsub : ps ⊆ qs) :
    ChangesOnly qs s t :=
  fun p hp => h p fun hmem => hp (hsub hmem)

/-- The ordinary end after a write of registers: the other registers keep their values, `PC` advances by 2, and no other
part changes. -/
theorem State.setRegs_advance_frame {rs : List RegIdx} (s : State) (v : Vector Byte 16)
    (h : RegsSameBut rs s (s.setRegs v)) :
    RegsSameBut rs s (s.setRegs v).advance ∧ (s.setRegs v).advance.pc = s.pc + 2#16 ∧
      ChangesOnly [.regs, .pc] s (s.setRegs v).advance :=
  ⟨h, rfl, (s.setRegs_changesOnly v).trans (State.setPc_changesOnly _ _)⟩

section
variable (s : State) (x : RegIdx) (b : Byte)

theorem State.readV_writeV_self : (s.writeV x b).readV x = b := (s.readV_writeV x x b).trans (if_pos rfl)

/-- The frame of an instruction that writes `V[X]` alone. -/
theorem State.writeV_advance_frame :
    RegsSameBut [x] s (s.writeV x b).advance ∧ (s.writeV x b).advance.pc = s.pc + 2#16 ∧
      ChangesOnly [.regs, .pc] s (s.writeV x b).advance := by
  refine s.setRegs_advance_frame _ fun r hr => ?_
  exact (s.readV_writeV x r b).trans (if_neg (List.mem_singleton.not.mp hr))

variable (f : Bool)

/-- The result is written last, so it is what `V[X]` holds, with X = 15 too (R121, the spec's decision D10). -/
theorem State.readV_writeFlagged_self : (s.writeFlagged f x b).readV x = b := State.readV_writeV_self _ x b

/-- With X other than 15 the flag written first remains. -/
theorem State.readV_writeFlagged_flag {x : RegIdx} (hx : x ≠ flagReg) :
    (s.writeFlagged f x b).readV flagReg = flagByte f := by
  rw [State.readV_writeFlagged, if_neg hx.symm, if_pos rfl]

/-- The frame of an instruction that writes `VF` and `V[X]`. -/
theorem State.writeFlagged_advance_frame :
    RegsSameBut [x, flagReg] s (s.writeFlagged f x b).advance ∧ (s.writeFlagged f x b).advance.pc = s.pc + 2#16 ∧
      ChangesOnly [.regs, .pc] s (s.writeFlagged f x b).advance := by
  refine s.setRegs_advance_frame _ fun r hr => ?_
  rw [List.mem_cons, List.mem_singleton, not_or] at hr
  exact (s.readV_writeFlagged f x r b).trans ((if_neg hr.1).trans (if_neg hr.2))

end

/-! ### Results and flags as exact integers (R120) -/

section
variable (a b : Byte)

/-- A difference modulo 256 is the exact one, with 256 added on a borrow. -/
theorem toNat_byte_sub :
    (a - b).toNat = if b.toNat ≤ a.toNat then a.toNat - b.toNat else a.toNat + 256 - b.toNat := by
  have ha := a.isLt
  have hb := b.isLt
  rw [BitVec.toNat_sub]
  split <;> omega

theorem toNat_byte_ushiftRight_one : (a >>> 1).toNat = a.toNat / 2 := by
  rw [BitVec.toNat_ushiftRight, Nat.shiftRight_one]

theorem toNat_byte_shiftLeft_one : (a <<< 1).toNat = 2 * a.toNat % 256 := by
  rw [BitVec.toNat_shiftLeft, Nat.shiftLeft_eq, Nat.mul_comm]

theorem flagByte_carryOut : flagByte (carryOut a b) = if 255 < a.toNat + b.toNat then 1#8 else 0#8 := by
  simp only [flagByte, carryOut, decide_eq_true_eq]

theorem flagByte_notBorrow : flagByte (notBorrow a b) = if a.toNat < b.toNat then 0#8 else 1#8 := by
  simp only [flagByte, notBorrow, decide_eq_true_eq, ← Nat.not_lt, ite_not]

theorem toNat_flagByte (f : Bool) : (flagByte f).toNat = f.toNat := by
  cases f <;> rfl

theorem toNat_flagByte_lowBit : (flagByte (lowBit a)).toNat = a.toNat % 2 := by
  rw [toNat_flagByte, lowBit, BitVec.getLsbD, Nat.toNat_testBit, Nat.pow_zero, Nat.div_one]

theorem toNat_flagByte_highBit : (flagByte (highBit a)).toNat = a.toNat / 128 := by
  have ha := a.isLt
  rw [toNat_flagByte, highBit, BitVec.getLsbD, Nat.toNat_testBit]
  omega

end

/-! ### Instructions that write `V[X]` alone -/

/-- Settles O18: the byte written is the constant. -/
theorem loadConstantWritesRegister : Obligations.LoadConstantWritesRegister := fun x nn s =>
  ⟨_, rfl, s.readV_writeV_self x nn, s.writeV_advance_frame x nn⟩

/-- Settles O19: the byte written is the sum, and `VF` is one of the other registers. -/
theorem addConstantWrapsWithoutFlag : Obligations.AddConstantWrapsWithoutFlag := fun x nn s =>
  ⟨_, rfl, (congrArg BitVec.toNat (s.readV_writeV_self x _)).trans (BitVec.toNat_add (s.readV x) nn),
    s.writeV_advance_frame x _⟩

/-- Settles O20: the byte written is the one read from `V[Y]`. -/
theorem assignCopiesRegister : Obligations.AssignCopiesRegister := fun x y s =>
  ⟨_, rfl, s.readV_writeV_self x (s.readV y), s.writeV_advance_frame x _⟩

/-- Settles O21: the bytes written are combined bit by bit. -/
theorem logicCombinesBitwise : Obligations.LogicCombinesBitwise := by
  intro x y s
  refine ⟨⟨_, rfl, fun k _ => ?_, s.writeV_advance_frame x _⟩,
    ⟨_, rfl, fun k _ => ?_, s.writeV_advance_frame x _⟩,
    ⟨_, rfl, fun k _ => ?_, s.writeV_advance_frame x _⟩⟩
  · rw [State.advance_readV, State.readV_writeV_self, BitVec.getLsbD_or]
  · rw [State.advance_readV, State.readV_writeV_self, BitVec.getLsbD_and]
  · rw [State.advance_readV, State.readV_writeV_self, BitVec.getLsbD_xor]

/-- Settles O27: the byte written is the given one under the mask; `exec` draws it first, which moves the place in the
free bytes and nothing else. -/
theorem randomByteIsMasked : Obligations.RandomByteIsMasked := by
  intro x nn s
  refine ⟨fun rand => ⟨_, rfl, s.readV_writeV_self x (rand &&& nn), s.writeV_advance_frame x _⟩, ?_⟩
  obtain ⟨hregs, hpc, hframe⟩ := s.nextDraw.writeV_advance_frame x (Config.randomByte s.draws &&& nn)
  exact ⟨_, rfl, s.nextDraw.readV_writeV_self x _, hregs, hpc, rfl,
    (s.nextDraw_changesOnly.trans hframe).mono (by decide)⟩

/-! ### Instructions that write `VF` and `V[X]` -/

/-- Settles O22: the flag written is the carry-out, the result the sum. -/
theorem addRegistersSetsCarry : Obligations.AddRegistersSetsCarry := fun x y s =>
  ⟨_, rfl, (congrArg BitVec.toNat (s.readV_writeFlagged_self x _ _)).trans (BitVec.toNat_add (s.readV x) (s.readV y)),
    fun hx => (s.readV_writeFlagged_flag _ _ hx).trans (flagByte_carryOut (s.readV x) (s.readV y)),
    s.writeFlagged_advance_frame x _ _⟩

/-- Settles O23: the flag written is the inverted borrow, the result the difference. -/
theorem subtractSetsInvertedBorrow : Obligations.SubtractSetsInvertedBorrow := fun x y s =>
  ⟨_, rfl, (congrArg BitVec.toNat (s.readV_writeFlagged_self x _ _)).trans (toNat_byte_sub (s.readV x) (s.readV y)),
    fun hx => (s.readV_writeFlagged_flag _ _ hx).trans (flagByte_notBorrow (s.readV x) (s.readV y)),
    s.writeFlagged_advance_frame x _ _⟩

/-- Settles O24: as O23, of `V[Y]` and `V[X]`. -/
theorem reverseSubtractSetsInvertedBorrow : Obligations.ReverseSubtractSetsInvertedBorrow := fun x y s =>
  ⟨_, rfl, (congrArg BitVec.toNat (s.readV_writeFlagged_self x _ _)).trans (toNat_byte_sub (s.readV y) (s.readV x)),
    fun hx => (s.readV_writeFlagged_flag _ _ hx).trans (flagByte_notBorrow (s.readV y) (s.readV x)),
    s.writeFlagged_advance_frame x _ _⟩

/-- Settles O25: the flag written is bit 0, the result the half; Y is not looked at. -/
theorem shiftRightCapturesLowBit : Obligations.ShiftRightCapturesLowBit := fun x _ s =>
  ⟨_, rfl, (congrArg BitVec.toNat (s.readV_writeFlagged_self x _ _)).trans (toNat_byte_ushiftRight_one (s.readV x)),
    fun hx => (congrArg BitVec.toNat (s.readV_writeFlagged_flag _ _ hx)).trans (toNat_flagByte_lowBit (s.readV x)),
    s.writeFlagged_advance_frame x _ _⟩

/-- Settles O26: the flag written is bit 7, the result the double; Y is not looked at. -/
theorem shiftLeftCapturesHighBit : Obligations.ShiftLeftCapturesHighBit := fun x _ s =>
  ⟨_, rfl, (congrArg BitVec.toNat (s.readV_writeFlagged_self x _ _)).trans (toNat_byte_shiftLeft_one (s.readV x)),
    fun hx => (congrArg BitVec.toNat (s.readV_writeFlagged_flag _ _ hx)).trans (toNat_flagByte_highBit (s.readV x)),
    s.writeFlagged_advance_frame x _ _⟩

end Sys2Proof.Machine
end

section
/-! SUPPORT and PROOFS. The index-register and memory instructions (`43_index_memory.md`): three set `I`, three move a
byte string between the registers and the bytes at `I`, once the whole range has passed the one range check (R140). -/

namespace Sys2Proof.Machine

/-! ### The two sides of the range check (R53 `20_memory.md`) -/

theorem withRange_of_inside {n : Nat} {s : State} (done : State) (h : s.i.toNat + n ≤ 4096) :
    withRange n s done = .next done := by
  rcases withRange_cases n s done with ⟨-, hnext⟩ | ⟨⟨-, houtside⟩, -⟩
  · exact hnext
  · exact absurd h (Nat.not_le.mpr houtside)

/-- A non-empty range that ends at `I + last` above memory: the whole effect is the fault's status (R181, R182
`60_exceptions.md`). -/
theorem withRange_of_outside {last : Nat} {s : State} (done : State) (h : 0xFFF < s.i.toNat + last) :
    ∃ t info, withRange (last + 1) s done = .next t ∧ t.status = .faulted .memOutOfRange info ∧
      info.toNat = max s.i.toNat 0x1000 ∧ ChangesOnly [.status] s t := by
  rcases withRange_cases (last + 1) s done with ⟨hinside, -⟩ | ⟨-, hfault⟩
  · omega
  · exact ⟨_, _, hfault, rfl, toNat_lowestOutOfRange s.i, s.setStatus_changesOnly _⟩

/-! ### Instructions that set `I` alone -/

theorem State.setIndex_changesOnly (s : State) (a : Word) : ChangesOnly [.index] s (s.setIndex a) := by
  intro p hp
  cases p
  case index => exact absurd (List.mem_singleton_self _) hp
  all_goals simp [SameOn]

/-- The frame of an instruction that sets `I`. -/
theorem State.setIndex_advance_frame (s : State) (a : Word) :
    (s.setIndex a).advance.pc = s.pc + 2#16 ∧ ChangesOnly [.index, .pc] s (s.setIndex a).advance :=
  ⟨rfl, (s.setIndex_changesOnly a).trans (State.setPc_changesOnly _ _)⟩

/-- Five times a byte fits into 16 bits, so the product is the exact one. -/
theorem toNat_glyphAddress (b : Byte) : (glyphAddress b).toNat = 5 * b.toNat := by
  have hb := b.isLt
  rw [glyphAddress, BitVec.toNat_mul, toNat_zextByte]
  exact Nat.mod_eq_of_lt (show 5 * b.toNat < 65536 by omega)

/-- Settles O35: zero extension keeps the literal's value. -/
theorem setIndexLoadsLiteral : Obligations.SetIndexLoadsLiteral := fun nnn s =>
  ⟨_, rfl, toNat_zextAddr nnn, s.setIndex_advance_frame _⟩

/-- Settles O36: the product does not wrap. -/
theorem fontAddressIsFiveTimes : Obligations.FontAddressIsFiveTimes := fun x s =>
  ⟨_, rfl, toNat_glyphAddress (s.readV x), s.setIndex_advance_frame _⟩

/-- Settles O37: the 16-bit sum with the zero-extended byte; `VF` is outside the parts that change. -/
theorem addIndexWrapsWithoutFlag : Obligations.AddIndexWrapsWithoutFlag := by
  intro x s
  refine ⟨_, rfl, ?_, s.setIndex_advance_frame _⟩
  rw [State.advance_i, State.setIndex_i, BitVec.toNat_add, toNat_zextByte]

/-! ### Instructions that store a byte string -/

theorem State.setMem_changesOnly (s : State) (m : Memory) : ChangesOnly [.mem] s (s.setMem m) := by
  intro p hp
  cases p
  case mem => exact absurd (List.mem_singleton_self _) hp
  all_goals simp [SameOn]

section
variable {s : State} {a : Nat} {bs : List Byte}

/-- Entry `k` of a stored byte string is what the byte at `a + k` reads as. -/
theorem Memory.read_writeBytes_inside (hwf : s.mem.wf) (hr : a + bs.length ≤ 4096) {k : Nat} (hk : k < bs.length) :
    (s.mem.writeBytes a bs).read (a + k) = bs[k] := by
  rw [Memory.read_writeBytes hwf hr, dif_pos ⟨Nat.le_add_right a k, by omega⟩]
  simp only [Nat.add_sub_cancel_left]

/-- The frame of an instruction that stores a byte string: the bytes outside it, `PC` and the other parts. -/
theorem State.writeBytes_advance_frame (hwf : s.mem.wf) (hr : a + bs.length ≤ 4096) :
    MemSameOutside a bs.length s (s.setMem (s.mem.writeBytes a bs)).advance ∧
      (s.setMem (s.mem.writeBytes a bs)).advance.pc = s.pc + 2#16 ∧
      ChangesOnly [.mem, .pc] s (s.setMem (s.mem.writeBytes a bs)).advance := by
  refine ⟨fun b hb => ?_, rfl, (s.setMem_changesOnly _).trans (State.setPc_changesOnly _ _)⟩
  exact (Memory.read_writeBytes hwf hr b).trans (dif_neg (by omega))

end

theorem length_bcdDigits (b : Byte) : (bcdDigits b).length = 3 := rfl

/-- The three bytes are the decimal digits as exact integers: each fits into a byte. -/
theorem toNat_getElem_bcdDigits (b : Byte) :
    ((bcdDigits b)[0]'(length_bcdDigits b ▸ by decide)).toNat = b.toNat / 100 ∧
    ((bcdDigits b)[1]'(length_bcdDigits b ▸ by decide)).toNat = b.toNat / 10 % 10 ∧
    ((bcdDigits b)[2]'(length_bcdDigits b ▸ by decide)).toNat = b.toNat % 10 := by
  have hb := b.isLt
  refine ⟨?_, ?_, ?_⟩
  all_goals exact (BitVec.toNat_ofNat _ 8).trans (Nat.mod_eq_of_lt (by omega))

/-- Settles O38: inside memory the three digits are stored as a byte string at `I`. -/
theorem bcdStoresDigits : Obligations.BcdStoresDigits := by
  intro x s hwf
  refine ⟨fun h => ?_, withRange_of_outside _⟩
  have hr : s.i.toNat + (bcdDigits (s.readV x)).length ≤ 4096 := by rw [length_bcdDigits]; omega
  have stored (k : Nat) (hk : k < 3) := congrArg BitVec.toNat (Memory.read_writeBytes_inside (k := k) hwf hr hk)
  obtain ⟨hundreds, tens, ones⟩ := toNat_getElem_bcdDigits (s.readV x)
  exact ⟨_, withRange_of_inside _ hr, (stored 0 (by decide)).trans hundreds, (stored 1 (by decide)).trans tens,
    (stored 2 (by decide)).trans ones, State.writeBytes_advance_frame hwf hr⟩

/-- Settles O39: inside memory `V[0]` to `V[X]` are stored as a byte string at `I`. -/
theorem registerDumpStoresRange : Obligations.RegisterDumpStoresRange := by
  intro x s hwf
  refine ⟨fun h => ?_, withRange_of_outside _⟩
  have hr : s.i.toNat + (s.lowRegs x).length ≤ 4096 := by rw [State.length_lowRegs]; omega
  have hframe := State.writeBytes_advance_frame hwf hr
  rw [State.length_lowRegs] at hframe
  refine ⟨_, withRange_of_inside _ (by omega), fun r hrx => ?_, hframe⟩
  have hk : r.toNat < (s.lowRegs x).length := by rw [State.length_lowRegs]; omega
  exact (Memory.read_writeBytes_inside hwf hr hk).trans (s.getElem_lowRegs x r hk)

/-! ### The instruction that loads a byte string -/

/-- After filling from `V[0]` on with the `n` bytes at `a`, the first `n` registers hold them and the rest stay. -/
theorem State.readV_fillRegs_readBytes (s : State) (a n : Nat) (r : RegIdx) :
    (s.setRegs (fillRegs s.v 0 (s.mem.readBytes a n))).readV r =
      if r.toNat < n then s.mem.read (a + r.toNat) else s.readV r := by
  rw [State.readV_eq, State.setRegs_v, getElem_fillRegs]
  simp only [Memory.length_readBytes, Memory.getElem_readBytes, Nat.zero_le, Nat.sub_zero, true_and, dite_eq_ite,
    State.readV_eq]

/-- Settles O40: inside memory `V[0]` to `V[X]` are filled from the bytes at `I`. -/
theorem registerLoadFillsRange : Obligations.RegisterLoadFillsRange := by
  intro x s
  refine ⟨fun h => ⟨_, withRange_of_inside _ (by omega), fun r => ?_, rfl,
    (s.setRegs_changesOnly _).trans (State.setPc_changesOnly _ _)⟩, withRange_of_outside _⟩
  exact (s.readV_fillRegs_readBytes s.i.toNat (x.toNat + 1) r).trans (if_congr Nat.lt_succ_iff rfl rfl)

end Sys2Proof.Machine
end

section
/-! SUPPORT and PROOFS. The display instructions (`44_display.md`). Of a draw, everything is said through one bit per
pixel, the sprite bit that falls on it: the blit toggles the pixel by it, and collides where it meets a lit pixel. -/

namespace Sys2Proof.Machine

/-! ### Clearing the screen, and the frames of the two display components -/

theorem State.setPixels_changesOnly (s : State) (fb : FrameBuffer) : ChangesOnly [.display] s (s.setPixels fb) := by
  intro p hp
  cases p
  case display => exact absurd (List.mem_singleton_self _) hp
  all_goals simp [SameOn]

theorem State.setRedraw_changesOnly (s : State) (b : Bool) : ChangesOnly [.redraw] s (s.setRedraw b) := by
  intro p hp
  cases p
  case redraw => exact absurd (List.mem_singleton_self _) hp
  all_goals simp [SameOn]

/-- Settles O41: the pixels are those of the blank screen. -/
theorem clearScreenBlanksAndRaisesRedraw : Obligations.ClearScreenBlanksAndRaisesRedraw := fun s =>
  ⟨_, rfl, pixelAt_blankScreen, rfl, rfl,
    ((s.setPixels_changesOnly _).trans (State.setRedraw_changesOnly _ _)).trans (State.setPc_changesOnly _ _)⟩

/-! ### The sprite bit over a pixel (R152, the spec's decision D11) -/

/-- The bit of the sprite of `DRW Vx,Vy,N` that falls on pixel `(px, py)`, found from the pixel's offsets; 0 where the
sprite does not reach. -/
def spriteBit (s : State) (x y : RegIdx) (n : RowCount) (px : Fin 64) (py : Fin 32) : Bool :=
  decide (rowOffset (s.readV y).toNat py < n.toNat) && decide (colOffset (s.readV x).toNat px < 8) &&
    (s.mem.read (s.i.toNat + rowOffset (s.readV y).toNat py)).getLsbD (7 - colOffset (s.readV x).toNat px)

/-- Sprites depend on memory, `I`, `V[X]` and `V[Y]` alone. -/
theorem spriteBit_congr {s t : State} {x y : RegIdx} (n : RowCount) (hmem : t.mem = s.mem) (hi : t.i = s.i)
    (hx : t.readV x = s.readV x) (hy : t.readV y = s.readV y) : spriteBit t x y n = spriteBit s x y n := by
  funext px py
  simp only [spriteBit, hmem, hi, hx, hy]

/-- Entry `k` of the bytes read from `a` on, with 0 past the last of them. -/
theorem Memory.getD_readBytes (m : Memory) (a n k : Nat) :
    (m.readBytes a n)[k]?.getD 0#8 = if k < n then m.read (a + k) else 0#8 := by
  split
  · next hk =>
    have hk' : k < (m.readBytes a n).length := by rwa [Memory.length_readBytes]
    rw [List.getElem?_eq_getElem hk', Option.getD_some, Memory.getElem_readBytes]
  · next hk =>
    rw [List.getElem?_eq_none (by rw [Memory.length_readBytes]; omega), Option.getD_none]

section
variable (s : State) (x y : RegIdx) (n : RowCount)

/-- The row and column of the sprite that wrap onto a pixel are the pixel's offsets. -/
theorem spriteBit_iff (px : Fin 64) (py : Fin 32) : spriteBit s x y n px py = true ↔ UnderSprite s x y n px py := by
  simp only [spriteBit, Bool.and_eq_true, decide_eq_true_eq]
  constructor
  · rintro ⟨⟨hr, hc⟩, hbit⟩
    exact ⟨_, _, hr, hc, congrArg Fin.val ((eq_wrapX_iff _ px (by omega)).mpr rfl),
      congrArg Fin.val ((eq_wrapY_iff _ py (by omega)).mpr rfl), hbit⟩
  · rintro ⟨r, c, hr, hc, hpx, hpy, hbit⟩
    have hcol : colOffset (s.readV x).toNat px = c := (eq_wrapX_iff _ px (by omega)).mp (Fin.ext hpx)
    have hrow : rowOffset (s.readV y).toNat py = r := (eq_wrapY_iff _ py (by omega)).mp (Fin.ext hpy)
    rw [hcol, hrow]
    exact ⟨⟨hr, hc⟩, hbit⟩

/-- The sprite bit is the bit that the blit takes from the list of sprite bytes. -/
theorem spriteBit_eq_getLsbD_readBytes (px : Fin 64) (py : Fin 32) :
    spriteBit s x y n px py = (decide (colOffset (s.readV x).toNat px < 8) &&
      ((s.mem.readBytes s.i.toNat n.toNat)[rowOffset (s.readV y).toNat py]?.getD 0#8).getLsbD
        (7 - colOffset (s.readV x).toNat px)) := by
  rw [spriteBit, Memory.getD_readBytes]
  split
  · next hr => rw [decide_eq_true hr, Bool.true_and]
  · next hr => rw [decide_eq_false hr, BitVec.getLsbD_zero, Bool.and_false, Bool.false_and, Bool.false_and]

/-! ### What a completed draw leaves -/

/-- DRW is a checked access of N bytes. -/
theorem exec_drw : exec (.drw x y n) s = withRange n.toNat s (completed (.drw x y n) s) := rfl

/-- A sprite of at most 15 rows wraps onto no row twice. -/
theorem length_sprite_le : 0 + (s.mem.readBytes s.i.toNat n.toNat).length ≤ 32 := by
  rw [Memory.length_readBytes]
  omega

/-- A draw toggles each pixel by its sprite bit. -/
theorem pixelAt_completed_drw (px : Fin 64) (py : Fin 32) :
    pixelAt (completed (.drw x y n) s).fb px py = (pixelAt s.fb px py ^^ spriteBit s x y n px py) := by
  rw [spriteBit_eq_getLsbD_readBytes]
  refine (pixelAt_blitRows _ _ 0 _ (length_sprite_le s n) _ px py).trans ?_
  rw [decide_eq_true (Nat.zero_le _), Bool.true_and, Nat.sub_zero]

/-- A draw collides exactly where a sprite bit of 1 falls on a lit pixel, and `VF` tells so. -/
theorem readV_flagReg_completed_drw : (completed (.drw x y n) s).readV flagReg =
    if ∃ px py, spriteBit s x y n px py = true ∧ pixelAt s.fb px py = true then 1#8 else 0#8 := by
  refine (State.readV_writeV_self _ flagReg _).trans (if_congr ?_ rfl rfl)
  rw [collision_blitRows _ _ 0 _ (length_sprite_le s n)]
  simp only [spriteBit_eq_getLsbD_readBytes, Bool.and_eq_true, decide_eq_true_eq, Bool.false_eq_true, false_or,
    Nat.zero_le, true_and, Nat.sub_zero, and_assoc]

/-- The frame of a draw that completes. -/
theorem completed_drw_frame : RegsSameBut [flagReg] s (completed (.drw x y n) s) ∧
    (completed (.drw x y n) s).redraw = true ∧ (completed (.drw x y n) s).pc = s.pc + 2#16 ∧
    ChangesOnly [.regs, .display, .redraw, .pc] s (completed (.drw x y n) s) := by
  refine ⟨fun r hr => ?_, rfl, rfl, ?_⟩
  · exact (State.readV_writeV _ flagReg r _).trans (if_neg (List.mem_singleton.not.mp hr))
  · exact ((((s.setPixels_changesOnly _).trans (State.setRegs_changesOnly _ _)).trans
      (State.setRedraw_changesOnly _ _)).trans (State.setPc_changesOnly _ _)).mono (by decide)

variable {s n}

/-- An empty sprite, wherever `I` points, and one that ends inside memory are drawn. -/
theorem exec_drw_of_inside (h : n.toNat = 0 ∨ s.i.toNat + n.toNat - 1 ≤ 0xFFF) :
    exec (.drw x y n) s = .next (completed (.drw x y n) s) := by
  rcases withRange_cases n.toNat s (completed (.drw x y n) s) with ⟨-, hdone⟩ | ⟨⟨hn, houtside⟩, -⟩
  · exact (exec_drw s x y n).trans hdone
  · omega

theorem eq_completed_drw {x y : RegIdx} {t : State} (hinside : n.toNat = 0 ∨ s.i.toNat + n.toNat - 1 ≤ 0xFFF)
    (h : exec (.drw x y n) s = .next t) : t = completed (.drw x y n) s :=
  Host.Outcome.next.inj (h.symm.trans (exec_drw_of_inside x y hinside))

end

/-- Settles O42: each pixel is toggled by its sprite bit, `VF` is the collision; outside memory the checked access
faults before anything is drawn. -/
theorem drawTogglesSpritePixels : Obligations.DrawTogglesSpritePixels := by
  intro x y n s
  simp only [← spriteBit_iff]
  refine ⟨fun hinside => ⟨_, exec_drw_of_inside x y hinside, fun px py => ⟨fun hbit => ?_, fun hbit => ?_⟩,
    fun hlit => ?_, fun hdark => ?_, completed_drw_frame s x y n⟩, fun ⟨hn, houtside⟩ => ?_⟩
  · rw [pixelAt_completed_drw, hbit, Bool.xor_true]
  · rw [pixelAt_completed_drw, Bool.eq_false_of_not_eq_true hbit, Bool.xor_false]
  · exact (readV_flagReg_completed_drw s x y n).trans (if_pos hlit)
  · exact (readV_flagReg_completed_drw s x y n).trans (if_neg hdark)
  · have hfault := withRange_of_outside (s := s) (last := n.toNat - 1) (completed (.drw x y n) s) (by omega)
    rwa [Nat.sub_add_cancel (Nat.pos_of_ne_zero hn), ← exec_drw] at hfault

/-- Settles O43: the first draw leaves the sprite where it was, so every pixel is toggled twice by the same bit, and the
second draw finds lit under the sprite exactly what was dark. -/
theorem drawingTwiceRestoresScreen : Obligations.DrawingTwiceRestoresScreen := by
  intro x y n s t u hx hy hinside ht hu
  obtain rfl := eq_completed_drw hinside ht
  obtain rfl := eq_completed_drw (s := completed (.drw x y n) s) hinside hu
  obtain ⟨hregs, -, -, -⟩ := completed_drw_frame s x y n
  have hsame : spriteBit (completed (.drw x y n) s) x y n = spriteBit s x y n :=
    spriteBit_congr n rfl rfl (hregs x (List.mem_singleton.not.mpr hx)) (hregs y (List.mem_singleton.not.mpr hy))
  constructor
  · intro px py
    rw [pixelAt_completed_drw, hsame, pixelAt_completed_drw, Bool.xor_assoc, Bool.xor_self, Bool.xor_false]
  · rw [readV_flagReg_completed_drw, hsame, Ne.ite_eq_left_iff (by decide)]
    refine exists_congr fun px => exists_congr fun py => ?_
    rw [← spriteBit_iff, pixelAt_completed_drw]
    refine and_congr_right fun hbit => ?_
    rw [hbit, Bool.xor_true, Bool.not_eq_true']

end Sys2Proof.Machine
end

section
/-! SUPPORT and PROOFS. The keypad instructions (`45_keypad.md`): the two skips are one test of the key that `V[X]`
names, behind one check of that index; the blocking read ends with the key search's answer, or in the wait. -/

namespace Sys2Proof.Machine

/-- For a key of the keypad, `keyDown` is that key's state. -/
theorem State.keyDown_eq_getElem (s : State) {k : Nat} (hk : k < 16) : s.keyDown k = s.keys[k] := by
  rw [State.keyDown, Vector.getElem?_eq_getElem hk, Option.getD_some]

/-! ### The key test on either side of its bound (R161, R162) -/

section
variable (wanted : Bool) {k : Byte} (s : State)

theorem skipOnKey_of_key (hk : k.toNat < 16) :
    ∃ t, skipOnKey wanted k s = .next t ∧
      t.pc = (if s.keys[k.toNat] = wanted then s.pc + 4#16 else s.pc + 2#16) ∧ ChangesOnly [.pc] s t := by
  have htest : (s.keyDown k.toNat == wanted) = true ↔ s.keys[k.toNat] = wanted := by
    rw [beq_iff_eq, s.keyDown_eq_getElem hk]
  exact ⟨_, if_neg (Nat.not_lt.mpr (Nat.le_of_lt_succ hk)), s.skipIf_takes htest⟩

theorem skipOnKey_of_no_key (hk : 15 < k.toNat) :
    ∃ t info, skipOnKey wanted k s = .next t ∧ t.status = .faulted .keyIndexOutOfRange info ∧
      info.toNat = k.toNat ∧ ChangesOnly [.status] s t :=
  ⟨_, _, if_pos hk, rfl, toNat_zextByte k, s.setStatus_changesOnly _⟩

end

/-- Settles O44: SKP wants the key down and SKNP wants it up; either way the index is checked first. -/
theorem keySkipsTestTheKey : Obligations.KeySkipsTestTheKey := fun _ s =>
  ⟨fun h => ⟨skipOnKey_of_key true s h, skipOnKey_of_key false s h⟩,
    fun h => ⟨skipOnKey_of_no_key true s h, skipOnKey_of_no_key false s h⟩⟩

/-! ### The blocking read (R163) -/

/-- With `k` the lowest key that is down `LD Vx,K` ends with `k` in `V[X]`. -/
theorem execLdVxK_of_lowest {s : State} (x : RegIdx) {k : Nat} (hk : k < 16) (hdown : s.keyDown k = true)
    (hup : ∀ j, j < k → s.keyDown j = false) :
    execLdVxK x s = .next (s.writeV x (BitVec.ofNat 8 k)).advance := by
  rw [execLdVxK, (lowestDown_eq_some s k).mpr ⟨hk, hdown, hup⟩]

/-- Settles O45: the key search finds the lowest key, whose index fits a byte; when it finds none, the new status is
the whole effect. -/
theorem waitForKeyTakesLowest : Obligations.WaitForKeyTakesLowest := by
  intro x s
  refine ⟨fun k hdown hup => ?_, fun hup => ?_⟩
  · have hlowest : ∀ j, j < k.val → s.keyDown j = false := fun j hj =>
      (s.keyDown_eq_getElem (hj.trans k.isLt)).trans (hup ⟨j, hj.trans k.isLt⟩ hj)
    have hvalue : (BitVec.ofNat 8 k.val).toNat = k.val :=
      (BitVec.toNat_ofNat k.val 8).trans (Nat.mod_eq_of_lt (by omega))
    exact ⟨_, execLdVxK_of_lowest x k.isLt ((s.keyDown_eq_getElem k.isLt).trans hdown) hlowest,
      (congrArg BitVec.toNat (s.readV_writeV_self x _)).trans hvalue, s.writeV_advance_frame x _⟩
  · have hnone : ∀ k, k < 16 → s.keyDown k = false := fun k hk =>
      (s.keyDown_eq_getElem hk).trans (hup ⟨k, hk⟩)
    exact ⟨_, execLdVxK_of_keys_up x hnone, rfl, s.setStatus_changesOnly _⟩

end Sys2Proof.Machine
end

section
/-! SUPPORT and PROOFS. The timer and sound instructions (`46_timers_sound.md`): the delay timer is read into and written
from a register; the sound instruction writes three components at once, unless a sound is pending (R173). -/

namespace Sys2Proof.Machine

/-! ### Frames of the two timers and of the sound signal -/

theorem State.setDelay_changesOnly (s : State) (b : Byte) : ChangesOnly [.delay] s (s.setDelay b) := by
  intro p hp
  cases p
  case delay => exact absurd (List.mem_singleton_self _) hp
  all_goals simp [SameOn]

theorem State.setSound_changesOnly (s : State) (b : Byte) : ChangesOnly [.sound] s (s.setSound b) := by
  intro p hp
  cases p
  case sound => exact absurd (List.mem_singleton_self _) hp
  all_goals simp [SameOn]

theorem State.setDuration_changesOnly (s : State) (b : Byte) : ChangesOnly [.duration] s (s.setDuration b) := by
  intro p hp
  cases p
  case duration => exact absurd (List.mem_singleton_self _) hp
  all_goals simp [SameOn]

theorem State.setPending_changesOnly (s : State) (b : Bool) : ChangesOnly [.pending] s (s.setPending b) := by
  intro p hp
  cases p
  case pending => exact absurd (List.mem_singleton_self _) hp
  all_goals simp [SameOn]

/-! ### The delay timer (R171, R172) -/

/-- Settles O47: one direction is a write of `V[X]`, the other a write of `DT`, each before the ordinary end. -/
theorem delayTimerTransfers : Obligations.DelayTimerTransfers := fun x s =>
  ⟨⟨_, rfl, s.readV_writeV_self x s.dt, s.writeV_advance_frame x s.dt⟩,
    ⟨_, rfl, rfl, rfl, (s.setDelay_changesOnly _).trans (State.setPc_changesOnly _ _)⟩⟩

/-! ### The sound instruction (R173) -/

theorem exec_ldStVx_of_silent {s : State} (x : RegIdx) (h : s.soundPending = false) :
    exec (.ldStVx x) s = .next (completed (.ldStVx x) s) :=
  if_neg (ne_true_of_eq_false h)

theorem exec_ldStVx_of_pending {s : State} (x : RegIdx) (h : s.soundPending = true) :
    exec (.ldStVx x) s = .next s :=
  if_pos h

/-- Settles O48: with no sound pending three writes, one after the other, and the ordinary end; with one pending, the
state itself. -/
theorem setSoundRaisesOrStalls : Obligations.SetSoundRaisesOrStalls := fun x s =>
  ⟨fun hsilent => ⟨_, exec_ldStVx_of_silent x hsilent, rfl, rfl, rfl, rfl,
      (((s.setSound_changesOnly _).trans (State.setDuration_changesOnly _ _)).trans
        (State.setPending_changesOnly _ _)).trans (State.setPc_changesOnly _ _)⟩,
    exec_ldStVx_of_pending x⟩

end Sys2Proof.Machine
end

section
/-! SUPPORT and PROOFS. The faults of a CYCLE (section 1 of `60_exceptions.md`): a fault of the table is an interruption
of the instruction, so the new status is the whole effect, and without one the step ends in no fault. -/

namespace Sys2Proof.Machine

section
variable {i : Instr} {s t : State} {f : Cause × Word}

/-! ### One instruction -/

/-- A fault of the table interrupts the instruction. -/
theorem interruption_of_faultOf (h : faultOf i s = some f) : interruption i s = some (faultedBy f) := by
  unfold interruption
  split
  · cases h
  · exact congrArg (Option.map faultedBy) h

/-- What interrupts an instruction: a fault of the table, or the key wait with every key up. -/
theorem interruption_cases {x : Status} (h : interruption i s = some x) :
    (∃ f, faultOf i s = some f ∧ x = faultedBy f) ∨
    (∃ r, x = .awaitingKey r ∧ ∀ k, k < 16 → s.keyDown k = false) := by
  unfold interruption at h
  split at h
  · obtain ⟨hup, hx⟩ := Option.ite_none_right_eq_some.mp h
    exact .inr ⟨_, (Option.some.inj hx).symm, (lowestDown_eq_none s).mp hup⟩
  · obtain ⟨f, hf, hx⟩ := Option.map_eq_some_iff.mp h
    exact .inl ⟨f, hf, hx.symm⟩

theorem faultOf_eq_none_of_not_interrupted (h : interruption i s = none) : faultOf i s = none := by
  cases hf : faultOf i s with
  | none => rfl
  | some f => exact absurd (h.symm.trans (interruption_of_faultOf hf)) nofun

/-- The sound instruction, the only one that stalls, has no row in the fault table. -/
theorem stalls_of_faultOf (h : faultOf i s = some f) : stalls i s = false := by
  cases i
  case ldStVx x => cases h
  all_goals rfl

theorem exec_of_faultOf (h : faultOf i s = some f) : exec i s = .next (s.setStatus (faultedBy f)) := by
  rw [exec_eq_next, execState, stalls_of_faultOf h, interruption_of_faultOf h]
  rfl

/-- From `Running`, an instruction without a fault of the table leaves `Running` or the key wait. -/
theorem exec_notFaulted (hrun : s.status = .running) (hnone : faultOf i s = none) (h : exec i s = .next t) :
    t.notFaulted := by
  intro c info ht
  rcases exec_cases h with ⟨-, -, rfl⟩ | ⟨-, x, hx, rfl⟩ | ⟨-, rfl⟩
  · exact absurd (ht.symm.trans ((completed_status i s).trans hrun)) nofun
  · rcases interruption_cases hx with ⟨f, hf, -⟩ | ⟨r, rfl, -⟩
    · exact absurd (hnone.symm.trans hf) nofun
    · cases ht
  · exact absurd (ht.symm.trans hrun) nofun

/-! ### The whole CYCLE -/

theorem step_of_cycleFault (hrun : s.status = .running) (h : cycleFault s = some f) :
    step s = .next (s.setStatus (faultedBy f)) := by
  unfold cycleFault at h
  split at h
  · next hpc =>
    cases h
    exact step_of_fetch_above_memory hrun hpc
  · next hpc => exact (step_of_fetchable hrun (Nat.not_lt.mp hpc)).trans (exec_of_faultOf h)

theorem step_notFaulted (hrun : s.status = .running) (hnone : cycleFault s = none) (h : step s = .next t) :
    t.notFaulted := by
  unfold cycleFault at hnone
  split at hnone
  · cases hnone
  · next hpc =>
    rw [step_of_fetchable hrun (Nat.not_lt.mp hpc)] at h
    exact exec_notFaulted hrun hnone h

end

/-- Settles O13: the step either takes the status of the table's fault, or there is none and it ends in no fault. -/
theorem faultsAreExactlyTheTable : Obligations.FaultsAreExactlyTheTable := by
  intro s t c info hrun h
  cases hf : cycleFault s with
  | none => exact iff_of_false (step_notFaulted hrun hf h c info) nofun
  | some f =>
    rw [step_of_cycleFault hrun hf] at h
    obtain rfl := Host.Outcome.next.inj h
    rw [State.setStatus_status, faultedBy, Status.faulted.injEq, Option.some.injEq, Prod.ext_iff]

/-- Settles O12: a step that answers a faulted state met a fault of the table, whose status is its whole effect. -/
theorem faultEntryIsPrecise : Obligations.FaultEntryIsPrecise := by
  intro s t c info hrun h ht
  have hf := (faultsAreExactlyTheTable s t c info hrun h).mp ht
  exact Host.Outcome.next.inj (h.symm.trans (step_of_cycleFault hrun hf))

end Sys2Proof.Machine
end

section
/-! SUPPORT and PROOFS. The host operations beside CYCLE (section 2 of `60_exceptions.md`): each by what it writes, and
none but INIT leaves a fault. -/

namespace Sys2Proof.Machine

/-- Settles O51: `decay` is one less, floor zero. -/
theorem tickDecaysBothTimers : Obligations.TickDecaysBothTimers := fun s =>
  ⟨_, rfl, toNat_decay s.dt, toNat_decay s.st,
    (s.setDelay_changesOnly (decay s.dt)).trans (State.setSound_changesOnly _ (decay s.st))⟩

/-! ### Acknowledges and queries (R195 to R197) -/

theorem queryPixel_of_inside (s : State) (px : Fin 64) (py : Fin 32) :
    queryPixel s px.val py.val = .ok (pixelAt s.fb px py) := by
  rw [queryPixel, if_pos ⟨px.isLt, py.isLt⟩, Fin.ofNat_val_eq_self, Fin.ofNat_val_eq_self]

theorem queryPixel_of_outside (s : State) {px py : Nat} (h : 64 ≤ px ∨ 32 ≤ py) :
    queryPixel s px py = .error (.pixelOutsideGrid px py) := if_neg (by omega)

/-- Settles O53: each acknowledge writes one flag, and each query reads one component. -/
theorem acknowledgesAndQueries : Obligations.AcknowledgesAndQueries := fun s =>
  ⟨⟨_, rfl, rfl, s.setRedraw_changesOnly false⟩, ⟨_, rfl, rfl, s.setPending_changesOnly false⟩,
    queryPixel_of_inside s, fun _ _ => queryPixel_of_outside s, rfl, rfl, rfl⟩

/-! ### Key events (R192, R193) -/

section
variable (s : State) (k : Nat) (pressed : Bool)

theorem State.writeKey_changesOnly : ChangesOnly [.keys] s (s.writeKey k pressed) := by
  intro p hp
  cases p
  case keys => exact absurd (List.mem_singleton_self _) hp
  all_goals simp [SameOn]

theorem State.getElem_keys_writeKey {j : Nat} (hj : j < 16) :
    (s.writeKey k pressed).keys[j] = if k = j then pressed else s.keys[j] := by
  simp only [State.writeKey_keys, Vector.getElem_setIfInBounds]

end

section
variable {s : State} {k : Nat}

/-- The state after key `k` has ended the wait for register `x`. -/
def State.wake (s : State) (x : RegIdx) (k : Nat) : State :=
  (((s.writeKey k true).writeV x (BitVec.ofNat 8 k)).setStatus .running).advance

theorem setKey_of_press_in_wait {x : RegIdx} (hk : k < 16) (hwait : s.status = .awaitingKey x) :
    setKey k true s = .next (s.wake x k) :=
  (setKey_eq_next k true s _).mpr ⟨hk, .inl ⟨x, hwait, rfl, rfl⟩⟩

theorem setKey_of_no_wake {pressed : Bool} (hk : k < 16)
    (h : (∀ x, s.status ≠ .awaitingKey x) ∨ pressed = false) :
    setKey k pressed s = .next (s.writeKey k pressed) :=
  (setKey_eq_next k pressed s _).mpr ⟨hk, .inr ⟨h, rfl⟩⟩

/-- The wake-up gives the key's index, which fits a byte, to the target register, and writes nothing else but the key,
the status and `PC`. -/
theorem State.wake_effect (s : State) (x : RegIdx) (hk : k < 16) :
    ((s.wake x k).readV x).toNat = k ∧ RegsSameBut [x] s (s.wake x k) ∧ (s.wake x k).status = .running ∧
      (s.wake x k).pc = s.pc + 2#16 ∧ ChangesOnly [.keys, .regs, .status, .pc] s (s.wake x k) := by
  have hvalue : (BitVec.ofNat 8 k).toNat = k := (BitVec.toNat_ofNat k 8).trans (Nat.mod_eq_of_lt (by omega))
  refine ⟨(congrArg BitVec.toNat ((s.writeKey k true).readV_writeV_self x _)).trans hvalue, fun r hr => ?_, rfl, rfl, ?_⟩
  · exact ((s.writeKey k true).readV_writeV x r _).trans (if_neg (List.mem_singleton.not.mp hr))
  · exact (((s.writeKey_changesOnly k true).trans (State.setRegs_changesOnly _ _)).trans
      (State.setStatus_changesOnly _ _)).trans (State.setPc_changesOnly _ _)

end

/-- Settles O52: SETKEY answers the wake-up for a press in the wait, and the written key otherwise. -/
theorem setKeyCompletesTheWait : Obligations.SetKeyCompletesTheWait := by
  intro k pressed s
  refine ⟨fun hk => ?_, fun hk => if_pos hk⟩
  by_cases hwake : ∃ x, s.status = .awaitingKey x ∧ pressed = true
  · obtain ⟨x, hwait, rfl⟩ := hwake
    refine ⟨s.wake x k, setKey_of_press_in_wait hk hwait,
      (s.getElem_keys_writeKey k true hk).trans (if_pos rfl),
      fun j hj => (s.getElem_keys_writeKey k true j.isLt).trans (if_neg hj.symm), fun y hy _ => ?_, ?_⟩
    · obtain rfl := Status.awaitingKey.inj (hwait.symm.trans hy)
      exact s.wake_effect x hk
    · rintro (hno | hno)
      · exact absurd hwait (hno x)
      · cases hno
  · have hother : (∀ x, s.status ≠ .awaitingKey x) ∨ pressed = false := by
      cases pressed with
      | false => exact .inr rfl
      | true => exact .inl fun x hx => hwake ⟨x, hx, rfl⟩
    exact ⟨s.writeKey k pressed, setKey_of_no_wake hk hother,
      (s.getElem_keys_writeKey k pressed hk).trans (if_pos rfl),
      fun j hj => (s.getElem_keys_writeKey k pressed j.isLt).trans (if_neg hj.symm),
      fun x hx hp => absurd ⟨x, hx, hp⟩ hwake, fun _ => s.writeKey_changesOnly k pressed⟩

/-- Settles O54: CYCLE is idle in a fault, SETKEY finds no wait to end, and the others do not write `status`. -/
theorem faultedIsSticky : Obligations.FaultedIsSticky := by
  intro op s t c info hop hs h
  cases op with
  | init => exact absurd rfl hop
  | load bytes =>
    obtain ⟨-, rfl⟩ := (loadProgram_eq_next bytes s t).mp h
    exact hs
  | cycle rand =>
    have hidle : s.status ≠ .running := by rw [hs]; nofun
    rcases cycleWith_cases rand s with ⟨-, hsame⟩ | ⟨hrun, -⟩ | ⟨hrun, -⟩
    · obtain rfl := Host.Outcome.next.inj (hsame.symm.trans h)
      exact hs
    · exact absurd hrun hidle
    · exact absurd hrun hidle
  | setKey k pressed =>
    rcases (setKey_eq_next k pressed s t).mp h with ⟨-, ⟨x, hx, -⟩ | ⟨-, rfl⟩⟩
    · exact absurd (hs.symm.trans hx) nofun
    · exact hs
  | tick | ackRedraw | ackSound =>
    obtain rfl := Host.Outcome.next.inj h
    exact hs

end Sys2Proof.Machine
end

section
/-! SUPPORT and PROOFS. The invariant of the machine (R27 `10_state.md`, R182 and R194 `60_exceptions.md`): what each part
of it asks of an instruction that completes and of a new status, then every CYCLE, every operation, every schedule. -/

namespace Sys2Proof.Machine

/-! ### The invariant by status -/

/-- In `Running` the invariant speaks of memory, `PC` and the return stack only. -/
theorem inv_of_running {t : State} (hrun : t.status = .running) (hmem : t.mem.wf) (hpc : t.pc.toNat ≤ 0x10FE)
    (hstack : ∀ k : Fin 16, t.stack[k.val].toNat ≤ 0xFFE) : t.Inv :=
  ⟨hmem, fun _ hx => absurd (hrun.symm.trans hx) nofun,
    ⟨hpc, fun _ hx => absurd (hrun.symm.trans hx) nofun, hstack⟩,
    fun _ _ hx => absurd (hrun.symm.trans hx) nofun⟩

/-- Settles O55: nothing is stored yet, and `PC` and the stack entries are the constants of the reset column. -/
theorem invariantHoldsAtReset : Obligations.InvariantHoldsAtReset := inv_of_running rfl rfl (by decide) (by decide)

section
variable {s : State}

theorem State.Inv.setStatus_faultedBy {f : Cause × Word} (h : s.Inv)
    (hf : (s.setStatus (faultedBy f)).FaultIsTrue) : (s.setStatus (faultedBy f)).Inv := by
  obtain ⟨hmem, -, ⟨hpc, -, hstack⟩, -⟩ := h
  exact ⟨hmem, nofun, ⟨hpc, nofun, hstack⟩, hf⟩

/-- The wait is entered with every key up, from a `PC` that was fetched at. -/
theorem State.Inv.setStatus_awaitingKey {r : RegIdx} (h : s.Inv) (hup : ∀ k, k < 16 → s.keyDown k = false)
    (hfetch : s.pc.toNat ≤ 0xFFE) : (s.setStatus (.awaitingKey r)).Inv := by
  obtain ⟨hmem, -, ⟨hpc, -, hstack⟩, -⟩ := h
  exact ⟨hmem, fun _ _ => hup, ⟨hpc, fun _ _ => hfetch, hstack⟩, nofun⟩

/-! ### The fault table records true faults (R182) -/

/-- No instruction's range is longer than the 16 bytes of the invariant. -/
theorem faultIsTrue_of_rangeFault {last : Nat} {f : Cause × Word} (hlast : last ≤ 15) (h : rangeFault s last = some f) :
    (s.setStatus (faultedBy f)).FaultIsTrue := by
  obtain ⟨hout, hf⟩ := Option.ite_none_right_eq_some.mp h
  cases hf
  intro c info hx
  cases hx
  have hi := s.i.isLt
  refine ⟨(BitVec.toNat_ofNat _ 16).trans (Nat.mod_eq_of_lt ?_), ?_⟩
  · exact Nat.max_lt.mpr ⟨hi, by decide⟩
  · rw [State.setStatus_i]
    omega

theorem faultIsTrue_of_keyFault {x : RegIdx} {f : Cause × Word} (h : keyFault s x = some f) :
    (s.setStatus (faultedBy f)).FaultIsTrue := by
  obtain ⟨hout, hf⟩ := Option.ite_none_right_eq_some.mp h
  cases hf
  intro c info hx
  cases hx
  have hv := (s.readV x).isLt
  have hinfo : (BitVec.ofNat 16 (s.readV x).toNat).toNat = (s.readV x).toNat :=
    (BitVec.toNat_ofNat _ 16).trans (Nat.mod_eq_of_lt (by omega))
  exact ⟨hout.trans_eq hinfo.symm, hinfo.trans_lt (by omega)⟩

/-- Row by row of the table. -/
theorem faultIsTrue_of_faultOf {i : Instr} {f : Cause × Word} (h : faultOf i s = some f) :
    (s.setStatus (faultedBy f)).FaultIsTrue := by
  cases i
  case drw x y n =>
    have hn := n.isLt
    exact faultIsTrue_of_rangeFault (by omega) (Option.ite_none_left_eq_some.mp h).2
  case ldB x => exact faultIsTrue_of_rangeFault (by decide) h
  case dump x | load x => exact faultIsTrue_of_rangeFault (Nat.le_of_lt_succ x.isLt) h
  case skp x | sknp x => exact faultIsTrue_of_keyFault h
  case call | ret =>
    obtain ⟨hsp, hf⟩ := Option.ite_none_right_eq_some.mp h
    cases hf
    intro c info hx
    cases hx
    exact ⟨rfl, hsp⟩
  all_goals cases h

theorem faultIsTrue_of_fetch_above_memory (h : 0xFFE < s.pc.toNat) :
    (s.setStatus (faultedBy (.fetchOutOfRange, s.pc))).FaultIsTrue := by
  intro c info hx
  cases hx
  exact ⟨rfl, h⟩

/-! ### What an instruction that completes leaves -/

/-- A range that does not fault ends inside memory. -/
theorem rangeFault_eq_none {last : Nat} (h : rangeFault s last = none) : s.i.toNat + last ≤ 0xFFF :=
  Nat.not_lt.mp fun hout => absurd ((if_pos hout).symm.trans h) nofun

/-- The two stores stay inside memory when the table has no fault for them. -/
theorem completed_mem_wf {i : Instr} (hmem : s.mem.wf) (hnone : faultOf i s = none) : (completed i s).mem.wf := by
  cases i
  case ldB x =>
    have hrange := rangeFault_eq_none hnone
    exact Memory.wf_writeBytes hmem (by rw [length_bcdDigits]; omega)
  case dump x =>
    have hrange := rangeFault_eq_none hnone
    exact Memory.wf_writeBytes hmem (by rw [State.length_lowRegs]; omega)
  all_goals exact hmem

/-- A freed entry is one of the sixteen. -/
theorem State.toNat_atStackPointer_le (hstack : ∀ k : Fin 16, s.stack[k.val].toNat ≤ 0xFFE) :
    s.atStackPointer.toNat ≤ 0xFFE := by
  unfold State.atStackPointer
  by_cases hk : s.sp.val < 16
  · rw [Vector.getElem?_eq_getElem hk]
    exact hstack ⟨s.sp.val, hk⟩
  · rw [Vector.getElem?_eq_none (Nat.not_lt.mp hk)]
    decide

theorem toNat_add_two_le {a : Word} (h : a.toNat ≤ 0xFFE) : (a + 2#16).toNat ≤ 0x10FE := by
  bv_omega

/-- From a fetchable `PC`, no target is above 0x10FE = 0xFF + 0xFFF, the farthest of `JP V0,NNN` (R27). -/
theorem toNat_pcTarget_le {i : Instr} {p : Word} (hpc : s.pc.toNat ≤ 0xFFE)
    (hstack : ∀ k : Fin 16, s.stack[k.val].toNat ≤ 0xFFE) (h : PcTarget i s p) : p.toNat ≤ 0x10FE := by
  cases i
  case jp nnn | call nnn =>
    have htarget : p.toNat = nnn.toNat := h
    omega
  case jpV0 nnn =>
    have htarget : p.toNat = (s.readV 0#4).toNat + nnn.toNat := h
    omega
  case ret =>
    obtain rfl : p = s.pop.atStackPointer + 2#16 := h
    exact toNat_add_two_le (State.toNat_atStackPointer_le (s := s.pop) hstack)
  case seImm | sneImm | seReg | sneReg | skp | sknp =>
    rcases h with rfl | rfl
    · exact toNat_add_two_le hpc
    · bv_omega
  all_goals
    obtain rfl : p = s.pc + 2#16 := h
    exact toNat_add_two_le hpc

/-- CALL alone writes an entry: the `PC` it was fetched at. -/
theorem toNat_stack_completed_le (i : Instr) (hpc : s.pc.toNat ≤ 0xFFE)
    (hstack : ∀ k : Fin 16, s.stack[k.val].toNat ≤ 0xFFE) (k : Fin 16) :
    (completed i s).stack[k.val].toNat ≤ 0xFFE := by
  cases i
  case call nnn =>
    have hentry : (completed (.call nnn) s).stack[k.val] = if s.sp.val = k.val then s.pc else s.stack[k.val] :=
      s.getElem_stack_push s.pc k.isLt
    rw [hentry]
    split
    · exact hpc
    · exact hstack k
  all_goals exact hstack k

/-! ### CYCLE -/

section
variable {t : State} (h : s.Inv) (hrun : s.status = .running) (hfetch : s.pc.toNat ≤ 0xFFE)
include h hrun hfetch

/-- An instruction that was fetched keeps the invariant, whichever way it ends. -/
theorem exec_keeps_inv {i : Instr} (he : exec i s = .next t) : t.Inv := by
  rcases exec_cases he with ⟨-, hnone, rfl⟩ | ⟨-, x, hx, rfl⟩ | ⟨-, rfl⟩
  · obtain ⟨hmem, -, ⟨-, -, hstack⟩, -⟩ := h
    exact inv_of_running ((completed_status i s).trans hrun)
      (completed_mem_wf hmem (faultOf_eq_none_of_not_interrupted hnone))
      (toNat_pcTarget_le hfetch hstack (pcTarget_completed i s)) (toNat_stack_completed_le i hfetch hstack)
  · rcases interruption_cases hx with ⟨f, hf, rfl⟩ | ⟨r, rfl, hup⟩
    · exact h.setStatus_faultedBy (faultIsTrue_of_faultOf hf)
    · exact h.setStatus_awaitingKey hup hfetch
  · exact h

theorem execWith_keeps_inv {rand : Byte} {i : Instr} (he : execWith rand i s = .next t) : t.Inv := by
  rcases execWith_cases rand i s with ⟨x, nn, -, hrnd⟩ | ⟨-, hexec⟩
  · obtain rfl := Host.Outcome.next.inj (hrnd.symm.trans he)
    obtain ⟨hmem, -, ⟨-, -, hstack⟩, -⟩ := h
    exact inv_of_running hrun hmem (toNat_add_two_le hfetch) hstack
  · exact exec_keeps_inv h hrun hfetch (hexec.symm.trans he)

end

/-- A CYCLE keeps the invariant when what it executes, once fetched, does. -/
theorem runCycle_keeps_inv {execute : Instr → State → Result} {t : State} (h : s.Inv)
    (hexec : s.status = .running → s.pc.toNat ≤ 0xFFE → ∀ i, execute i s = .next t → t.Inv)
    (he : runCycle execute s = .next t) : t.Inv := by
  rcases runCycle_cases execute s with ⟨-, hidle⟩ | ⟨-, hpc, hfault⟩ | ⟨hrun, hfetch, hrest⟩
  · obtain rfl := Host.Outcome.next.inj (hidle.symm.trans he)
    exact h
  · obtain rfl := Host.Outcome.next.inj (hfault.symm.trans he)
    exact h.setStatus_faultedBy (faultIsTrue_of_fetch_above_memory hpc)
  · exact hexec hrun hfetch _ (hrest.symm.trans he)

end

/-- Settles O56: the step is the CYCLE of `exec`. -/
theorem stepKeepsInvariant : Obligations.StepKeepsInvariant := fun _ _ h =>
  runCycle_keeps_inv h fun hrun hfetch _ => exec_keeps_inv h hrun hfetch

/-! ### The other operations, and every schedule -/

/-- A release keeps every key of a wait up, a press ends it at a `PC` that was fetched at (R194). -/
theorem setKey_keeps_inv {k : Nat} {pressed : Bool} {s t : State} (h : s.Inv) (he : setKey k pressed s = .next t) :
    t.Inv := by
  obtain ⟨hmem, hkeys, ⟨hpc, hwaitpc, hstack⟩, hfault⟩ := h
  obtain ⟨hk, ⟨x, hwait, -, rfl⟩ | ⟨hother, rfl⟩⟩ := (setKey_eq_next k pressed s t).mp he
  · exact inv_of_running rfl hmem (toNat_add_two_le (hwaitpc x hwait)) hstack
  · refine ⟨hmem, fun x hwait j hj => ?_, ⟨hpc, hwaitpc, hstack⟩, hfault⟩
    obtain rfl : pressed = false := hother.resolve_left fun hno => hno x hwait
    rw [State.keyDown_writeKey s k j false hk, hkeys x hwait j hj, ite_self]

theorem perform_keeps_inv {op : Operation} {s t : State} (h : s.Inv) (he : perform op s = .next t) : t.Inv := by
  cases op with
  | init =>
    obtain rfl := Host.Outcome.next.inj he
    exact invariantHoldsAtReset
  | load bytes =>
    obtain ⟨hmem, hrest⟩ := h
    have hwf := wf_loadProgram hmem he
    obtain ⟨-, rfl⟩ := (loadProgram_eq_next bytes s t).mp he
    exact ⟨hwf, hrest⟩
  | cycle rand => exact runCycle_keeps_inv h (fun hrun hfetch _ => execWith_keeps_inv h hrun hfetch) he
  | setKey k pressed => exact setKey_keeps_inv h he
  | tick | ackRedraw | ackSound =>
    obtain rfl := Host.Outcome.next.inj he
    exact h

section
variable {P : State → Prop} (hop : ∀ op s t, P s → perform op s = .next t → P t)
include hop

/-- What every operation keeps, every schedule keeps. -/
theorem performAll_keeps {ops : List Operation} {s t : State} (hs : P s) (h : performAll ops s = .next t) : P t := by
  induction ops generalizing s with
  | nil =>
    obtain rfl := Host.Outcome.next.inj h
    exact hs
  | cons op ops ih =>
    rw [performAll] at h
    split at h
    · next u hu => exact ih (hop op s u hs hu) h
    · cases h
    · cases h

/-- What holds at reset and every operation keeps holds of every reachable state. -/
theorem Reachable.of_kept (hreset : P State.reset) {s : State} (h : Reachable s) : P s := by
  obtain ⟨_, hops⟩ := h
  exact performAll_keeps hop hreset hops

end

/-- Settles O57: the operations one by one, and from reset the schedules they make up. -/
theorem everyReachableStateMeetsInvariant : Obligations.EveryReachableStateMeetsInvariant :=
  ⟨fun _ _ _ => perform_keeps_inv,
    fun _ => Reachable.of_kept (fun _ _ _ => perform_keeps_inv) invariantHoldsAtReset⟩

end Sys2Proof.Machine
end

section
/-! PROOFS. What is left of the encoding (`30_encoding.md`): the round trip of a word, no illegal word (R76), and the
sample words of R75. -/

namespace Sys2Proof

/-- Settles O2: the round trip of a word, class by class. -/
theorem encodeInvertsDecode : Obligations.EncodeInvertsDecode := encode_decodeWord

/-- Settles O5: a decoded no-op carries a word that no row selects. -/
theorem everyWordDecodesWellFormed : Obligations.EveryWordDecodesWellFormed := wellFormed_decodeWord

/-- Settles O6: each pair of bytes by computation. -/
theorem sampleWordsDecode : Obligations.SampleWordsDecode :=
  ⟨rfl, rfl, rfl, rfl, rfl, rfl, rfl, rfl, rfl⟩

end Sys2Proof
end

section
/-! SUPPORT and PROOFS. A word placed for the next fetch (R51 `20_memory.md`, R91 `40_fetch_decode.md`; log entry 5): it
is read back as the fetched word, from a `PC` that can be fetched at. -/

namespace Sys2Proof.Machine

/-- A table word of at most 16 bits is decoded as that word. -/
theorem decodeTableWord_eq_some {nbits w : Nat} {i : Instr} (h : decodeTableWord nbits w = some i) :
    nbits ≤ 16 ∧ decodeWord (BitVec.ofNat 16 (w % 2 ^ nbits)) = i := by
  unfold decodeTableWord at h
  split at h
  · next hn =>
    refine ⟨hn, ?_⟩
    rw [← wordOfBytes_highByte_lowByte (BitVec.ofNat 16 (w % 2 ^ nbits))]
    exact Option.some.inj h
  · cases h

theorem fetchablePc_le (s : State) : (fetchablePc s).toNat ≤ 0xFFE := by
  unfold fetchablePc
  split
  · assumption
  · decide

/-- A word stored in its two bytes, the high byte first, reads back as that word (R51). -/
theorem wordOfBytes_read_writeBytes {s : State} (hwf : s.mem.wf) {a : Nat} (ha : a ≤ 0xFFE) (w : Word) :
    wordOfBytes ((s.mem.writeBytes a [highByte w, lowByte w]).read a)
      ((s.mem.writeBytes a [highByte w, lowByte w]).read (a + 1)) = w := by
  have stored (k : Nat) (hk : k < 2) :=
    Memory.read_writeBytes_inside (bs := [highByte w, lowByte w]) hwf (Nat.add_le_add_right ha 2) hk
  exact (congrArg₂ wordOfBytes (stored 0 (by decide)) (stored 1 (by decide))).trans (wordOfBytes_highByte_lowByte w)

/-- The placed word is the one fetched. -/
theorem fetchWord_withFetchWord {s : State} (hwf : s.mem.wf) (nbits w : Nat) :
    fetchWord (s.withFetchWord nbits w) = BitVec.ofNat 16 (w % 2 ^ min nbits 16) :=
  wordOfBytes_read_writeBytes hwf (fetchablePc_le s) _

/-- Settles O10: the state with the word is `Running` at a `PC` that can be fetched at, and fetches the word. -/
theorem placedWordRunsNext : Obligations.PlacedWordRunsNext := by
  intro s nbits w i hwf h
  obtain ⟨hn, rfl⟩ := decodeTableWord_eq_some h
  rw [step_of_fetchable rfl (fetchablePc_le s), fetchWord_withFetchWord hwf, Nat.min_eq_left hn]

end Sys2Proof.Machine
end

section
/-! SUPPORT and PROOFS. The frame of every instruction (`10_state.md` sections 2 to 7, `20_memory.md` section 5): of an
instruction that completes, put together from the frames of its updates; of one that does not, at most its status. -/

namespace Sys2Proof.Machine

theorem SameOn.refl (p : Part) (s : State) : SameOn p s s := by
  cases p
  case mem | regs | stack | keys => exact fun _ => rfl
  case display => exact fun _ _ => rfl
  all_goals rfl

/-- An instruction that can be interrupted has `status` on its list. -/
theorem status_mem_mayWrite {i : Instr} {s : State} {x : Status} (h : interruption i s = some x) :
    .status ∈ mayWrite i := by
  cases i
  case ret | call | drw | skp | sknp | ldVxK | ldB | dump | load => simp [mayWrite]
  all_goals cases h

/-- An instruction that completes writes what its updates write. -/
theorem completed_changesOnly (i : Instr) (s : State) : ChangesOnly (mayWrite i) s (completed i s) := by
  cases i
  case cls =>
    exact ((s.setPixels_changesOnly _).trans (State.setRedraw_changesOnly _ _)).trans (State.setPc_changesOnly _ _)
  case ret => exact (s.pop_changesOnly.trans (State.setPc_changesOnly _ _)).mono (by decide)
  case call nnn => exact ((s.push_changesOnly _).trans (State.setPc_changesOnly _ _)).mono (by simp [mayWrite])
  case jp | jpV0 | seImm | sneImm | seReg | sneReg | skp | sknp | nop =>
    exact (s.setPc_changesOnly _).mono (by simp [mayWrite])
  case ldImm | addImm | ldReg | orReg | andReg | xorReg | addReg | sub | shr | subn | shl | ldVxDt | ldVxK | load =>
    exact ((s.setRegs_changesOnly _).trans (State.setPc_changesOnly _ _)).mono (by simp [mayWrite])
  case rnd x nn =>
    exact ((s.nextDraw_changesOnly.trans (State.setRegs_changesOnly _ _)).trans
      (State.setPc_changesOnly _ _)).mono (by simp [mayWrite])
  case ldI | addI | ldF => exact (s.setIndex_changesOnly _).trans (State.setPc_changesOnly _ _)
  case drw x y n =>
    obtain ⟨-, -, -, hframe⟩ := completed_drw_frame s x y n
    exact hframe.mono (by simp [mayWrite])
  case ldDtVx x => exact (s.setDelay_changesOnly _).trans (State.setPc_changesOnly _ _)
  case ldStVx x =>
    exact (((s.setSound_changesOnly _).trans (State.setDuration_changesOnly _ _)).trans
      (State.setPending_changesOnly _ _)).trans (State.setPc_changesOnly _ _)
  case ldB | dump =>
    exact ((s.setMem_changesOnly _).trans (State.setPc_changesOnly _ _)).mono (by simp [mayWrite])

/-- Settles O16: a completed instruction changes what its updates write, an interrupted one its status, a stalled one
nothing. -/
theorem instructionsChangeOnlyTheirParts : Obligations.InstructionsChangeOnlyTheirParts := by
  intro i s t h
  rcases exec_cases h with ⟨-, -, rfl⟩ | ⟨-, x, hx, rfl⟩ | ⟨-, rfl⟩
  · exact completed_changesOnly i s
  · exact (s.setStatus_changesOnly x).mono (List.cons_subset.mpr ⟨status_mem_mayWrite hx, List.nil_subset _⟩)
  · exact fun p _ => SameOn.refl p t

end Sys2Proof.Machine
end

section
/-! SUPPORT and PROOFS. A call and the return from it, one after the other (R100, R102 `41_control_flow.md`). -/

namespace Sys2Proof.Machine

/-- A listed part that is as before need not be listed. -/
theorem ChangesOnly.unlist {q : Part} {qs : List Part} {s t : State} (h : ChangesOnly (q :: qs) s t)
    (hq : SameOn q s t) : ChangesOnly qs s t := by
  intro p hp
  by_cases hpq : p = q
  · exact hpq ▸ hq
  · exact h p fun hmem => (List.mem_cons.mp hmem).elim hpq hp

/-- Settles O31: what O29 says of the call, then what O30 says of the return, whose popped entry is the one that the call
wrote. Both move `SP`, but together they leave it where it was. -/
theorem callThenReturnComesBack : Obligations.CallThenReturnComesBack := by
  intro nnn s t u hsp ht hu
  obtain ⟨t', ht', hentry, hothers, hspt, -, hcall⟩ := (callPushesOwnAddress nnn s).1 hsp
  obtain rfl := Host.Outcome.next.inj (ht'.symm.trans ht)
  obtain ⟨u', hu', hspu, hpc, hret⟩ := (returnGoesPastTheCall t').1 (by omega)
  obtain rfl := Host.Outcome.next.inj (hu'.symm.trans hu)
  have hback : u'.sp = s.sp := Fin.ext (by omega)
  have hstack : SameOn .stack t' u' := hret .stack (by decide)
  refine ⟨?_, hback, fun k hk => (hstack k).trans (hothers k hk), ?_⟩
  · simpa only [hspt, Nat.add_sub_cancel, hentry] using hpc
  · exact ((hcall.trans hret).mono (qs := [.sp, .pc, .stack]) (by decide)).unlist hback

end Sys2Proof.Machine
end

section
/-! SUPPORT and PROOFS. Reset and load (`70_reset_and_hazards.md`): INIT sets the whole core to the reset column, LOAD
stores one byte string, or is refused. -/

namespace Sys2Proof.Machine

/-- The reset column (R20 `10_state.md`, R210 `70_reset_and_hazards.md`) holds of every state with the reset core: its
memory lists no byte, and its vectors repeat one value. -/
theorem isResetState_of_core {s : State} (h : s.toCoreState = State.reset.toCoreState) : IsResetState s := by
  obtain ⟨core, draws⟩ := s
  subst h
  refine ⟨fun a _ => rfl, fun a ha => List.getD_eq_default _ _ ha, fun r => Vector.getElem_replicate _, rfl, rfl,
    fun k => Vector.getElem_replicate _, rfl, rfl, rfl, pixelAt_blankScreen, rfl,
    fun k => Vector.getElem_replicate _, rfl, rfl, rfl⟩

/-- Settles O49: `State.reset` and what INIT answers have the reset core. -/
theorem initGivesResetState : Obligations.InitGivesResetState :=
  ⟨isResetState_of_core rfl, fun s => ⟨_, rfl, isResetState_of_core (initialise_toCoreState s)⟩⟩

/-- Settles O50: a program that fits is stored as a byte string at 0x200, whose last byte is inside memory. -/
theorem loadCopiesProgram : Obligations.LoadCopiesProgram := by
  intro bytes s hwf
  refine ⟨fun hfits => ?_, fun hlong => if_neg (Nat.not_le.mpr hlong)⟩
  have hr : 0x200 + bytes.length ≤ 4096 := by omega
  obtain ⟨houtside, -, -⟩ := State.writeBytes_advance_frame hwf hr
  exact ⟨_, (loadProgram_eq_next bytes s _).mpr ⟨hfits, rfl⟩, fun j hj => Memory.read_writeBytes_inside hwf hr hj,
    houtside, s.setMem_changesOnly _⟩

end Sys2Proof.Machine
end

section
/-! SUPPORT and PROOFS. The canonical form of memory (log entry 7) is canonical: an entry never says what an unlisted
address says, so memories that read alike list the same entries. -/

namespace Sys2Proof.Machine

theorem Memory.wfFrom_cons {lo a : Nat} {v : Byte} {m : Memory} :
    Memory.wfFrom lo ((a, v) :: m) = true ↔
      lo ≤ a ∧ a < 4096 ∧ v ≠ Memory.resetByte a ∧ Memory.wfFrom (a + 1) m = true := by
  simp only [Memory.wfFrom, Bool.and_eq_true, decide_eq_true_eq, and_assoc]

/-- A memory whose entries all lie above `a` cannot read like one that lists `a`. -/
theorem Memory.not_alike_of_head_below {a lo : Nat} {v : Byte} {m n : Memory} (hv : v ≠ Memory.resetByte a)
    (hn : Memory.wfFrom lo n) (ha : a < lo) : ¬ ∀ c, Memory.read ((a, v) :: m) c = n.read c := by
  intro h
  have hhead : v = n.read a := (if_pos rfl).symm.trans (h a)
  exact hv (hhead.trans (Memory.read_below hn ha))

/-- From any address up, memories in canonical form that read alike are the same list: the first entries are at the same
address, or the lower one would be read nowhere in the other memory. -/
theorem Memory.eq_of_reads_alike {lo : Nat} {m n : Memory} (hm : Memory.wfFrom lo m) (hn : Memory.wfFrom lo n)
    (h : ∀ a, m.read a = n.read a) : m = n := by
  induction m generalizing lo n with
  | nil =>
    cases n with
    | nil => rfl
    | cons d n =>
      obtain ⟨-, -, hw, -⟩ := Memory.wfFrom_cons.mp hn
      exact absurd (fun c => (h c).symm) (Memory.not_alike_of_head_below (lo := d.1 + 1) hw rfl d.1.lt_succ_self)
  | cons c m ih =>
    obtain ⟨a, v⟩ := c
    obtain ⟨hlo, hav, hv, hm'⟩ := Memory.wfFrom_cons.mp hm
    cases n with
    | nil => exact absurd h (Memory.not_alike_of_head_below (lo := a + 1) hv rfl a.lt_succ_self)
    | cons d n =>
      obtain ⟨b, w⟩ := d
      obtain ⟨-, hbw, hw, hn'⟩ := Memory.wfFrom_cons.mp hn
      rcases Nat.lt_trichotomy a b with hab | rfl | hba
      · have hn'' : Memory.wfFrom b ((b, w) :: n) := Memory.wfFrom_cons.mpr ⟨Nat.le_refl b, hbw, hw, hn'⟩
        exact absurd h (Memory.not_alike_of_head_below hv hn'' hab)
      · have hvw : v = w := by simpa [Memory.read_cons] using h a
        subst hvw
        rw [ih hm' hn' fun k => ?_]
        by_cases hk : k = a
        · rw [Memory.read_below hm' (by omega), Memory.read_below hn' (by omega)]
        · simpa [Memory.read_cons, hk] using h k
      · have hm'' : Memory.wfFrom a ((a, v) :: m) := Memory.wfFrom_cons.mpr ⟨Nat.le_refl a, hav, hv, hm'⟩
        exact absurd (fun k => (h k).symm) (Memory.not_alike_of_head_below hw hm'' hba)

/-- Settles O58: from address 0 up. -/
theorem canonicalMemoriesThatReadAlikeAreEqual : Obligations.CanonicalMemoriesThatReadAlikeAreEqual :=
  fun _ _ => Memory.eq_of_reads_alike

end Sys2Proof.Machine
end
